-- ==== Sys2Proof/Word.lean ====
section
/-! DEFINITION. Word.lean: the widths of 00_scope.md R6: bytes, 16-bit words, 12-bit addresses, register numbers. -/

namespace Sys2Proof

/-- An 8-bit unsigned value (`u8`, R6): a general register, a timer, a byte of memory. -/
abbrev Byte := BitVec 8

/-- A 16-bit unsigned value (`u16`, R6): an instruction word, `I`, `PC`, a return address. -/
abbrev Word := BitVec 16

/-- The 12-bit address field `nnn` of an instruction word (`u12`, R72). -/
abbrev Addr := BitVec 12

/-- The number of a general register V0–VF (R8), and the number of a key 0–F (R33). -/
abbrev RegNum := Fin 16

/-- The sprite height `n` of DRW, 0–15 (R72). -/
abbrev Count := Fin 16

/-- VF is `V[15]` (R8). -/
def VF : RegNum := 15

end Sys2Proof
end

