-- ==== Sys2Proof/Syntax.lean ====
section
/-! DEFINITION. Syntax.lean: one constructor for each of the 35 rows of 30_encoding.md R80. -/

namespace Sys2Proof

/-- A decoded instruction. Its operands are the fields the row of R80 uses; the bits R82 calls ignored are
no part of it. -/
inductive Instr where
  /-- `SYS nnn`, row 1, R130. -/
  | sys (nnn : Addr)
  /-- `CLS`, row 2, R170. -/
  | cls
  /-- `RET`, row 3, R133. -/
  | ret
  /-- `JP nnn`, row 4, R131. -/
  | jp (nnn : Addr)
  /-- `CALL nnn`, row 5, R132. -/
  | call (nnn : Addr)
  /-- `SE Vx,kk`, row 6, R135. -/
  | seVxKk (x : RegNum) (kk : Byte)
  /-- `SNE Vx,kk`, row 7, R136. -/
  | sneVxKk (x : RegNum) (kk : Byte)
  /-- `SE Vx,Vy`, row 8, R137. -/
  | seVxVy (x y : RegNum)
  /-- `LD Vx,kk`, row 9, R101. -/
  | ldVxKk (x : RegNum) (kk : Byte)
  /-- `ADD Vx,kk`, row 10, R102. -/
  | addVxKk (x : RegNum) (kk : Byte)
  /-- `LD Vx,Vy`, row 11, R103. -/
  | ldVxVy (x y : RegNum)
  /-- `OR Vx,Vy`, row 12, R104. -/
  | orVxVy (x y : RegNum)
  /-- `AND Vx,Vy`, row 13, R105. -/
  | andVxVy (x y : RegNum)
  /-- `XOR Vx,Vy`, row 14, R106. -/
  | xorVxVy (x y : RegNum)
  /-- `ADD Vx,Vy`, row 15, R108. -/
  | addVxVy (x y : RegNum)
  /-- `SUB Vx,Vy`, row 16, R109. -/
  | subVxVy (x y : RegNum)
  /-- `SHR Vx`, row 17, R110. -/
  | shrVx (x : RegNum)
  /-- `SUBN Vx,Vy`, row 18, R111. -/
  | subnVxVy (x y : RegNum)
  /-- `SHL Vx`, row 19, R112. -/
  | shlVx (x : RegNum)
  /-- `SNE Vx,Vy`, row 20, R138. -/
  | sneVxVy (x y : RegNum)
  /-- `LD I,nnn`, row 21, R150. -/
  | ldINnn (nnn : Addr)
  /-- `JP V0,nnn`, row 22, R139. -/
  | jpV0Nnn (nnn : Addr)
  /-- `RND Vx,kk`, row 23, R113. -/
  | rndVxKk (x : RegNum) (kk : Byte)
  /-- `DRW Vx,Vy,n`, row 24, R171. -/
  | drwVxVyN (x y : RegNum) (n : Count)
  /-- `SKP Vx`, row 25, R190. -/
  | skpVx (x : RegNum)
  /-- `SKNP Vx`, row 26, R191. -/
  | sknpVx (x : RegNum)
  /-- `LD Vx,DT`, row 27, R200. -/
  | ldVxDt (x : RegNum)
  /-- `LD Vx,K`, row 28, R192. -/
  | ldVxK (x : RegNum)
  /-- `LD DT,Vx`, row 29, R201. -/
  | ldDtVx (x : RegNum)
  /-- `LD ST,Vx`, row 30, R202. -/
  | ldStVx (x : RegNum)
  /-- `ADD I,Vx`, row 31, R151. -/
  | addIVx (x : RegNum)
  /-- `LD F,Vx`, row 32, R152. -/
  | ldFVx (x : RegNum)
  /-- `LD B,Vx`, row 33, R153. -/
  | ldBVx (x : RegNum)
  /-- `LD [I],Vx`, row 34, R154. -/
  | ldMemVx (x : RegNum)
  /-- `LD Vx,[I]`, row 35, R155. -/
  | ldVxMem (x : RegNum)
  deriving DecidableEq, Repr

end Sys2Proof
end

