-- ==== Sys2Proof/WellFormed.lean ====
section
/-! DEFINITION. WellFormed.lean: the one check that the operand types do not already make (R80 row 1). -/

namespace Sys2Proof

/-- A `SYS nnn` word is one whose low byte is neither `E0` nor `EE`: those words are CLS and RET (R76, R80).
Every other operand fits its field by its type. -/
def Instr.wellFormed : Instr → Bool
  | .sys nnn => nnn.setWidth 8 != 0xE0#8 && nnn.setWidth 8 != 0xEE#8
  | _ => true

end Sys2Proof
end

