-- ==== Sys2Proof/Decode.lean ====
section
/-! DEFINITION. Decode.lean: the decoder and the two-level dispatch of 30_encoding.md R70–R82, then the encoder. -/

namespace Sys2Proof

/-- Why bytes select no instruction (R81): each rejection has a name. -/
inductive DecodeError where
  /-- A word of sub-table 8 with no row (R77). -/
  | noRow8
  /-- A word of sub-table E with no row (R78). -/
  | noRowE
  /-- A word of sub-table F with no row (R79). -/
  | noRowF
  /-- Fewer than the two bytes every instruction has (R70). -/
  | tooShort
  deriving DecidableEq, Repr

/-- The register number a 4-bit field names (R72). -/
def regOfBits (b : BitVec 4) : RegNum := ⟨b.toNat, b.isLt⟩

/-- The 4-bit field that names a register number. -/
def bitsOfReg (x : RegNum) : BitVec 4 := BitVec.ofNat 4 x.val

/-- `op = w[15:12]` (R71). -/
def fieldOp (w : Word) : BitVec 4 := w.extractLsb' 12 4
/-- `x = w[11:8]` (R71), as the register it selects. -/
def fieldX (w : Word) : RegNum := regOfBits (w.extractLsb' 8 4)
/-- `y = w[7:4]` (R71), as the register it selects. -/
def fieldY (w : Word) : RegNum := regOfBits (w.extractLsb' 4 4)
/-- `n = w[3:0]` (R71), as a count or sub-key. -/
def fieldN (w : Word) : Count := regOfBits (w.extractLsb' 0 4)
/-- `kk = w[7:0]` (R71). -/
def fieldKk (w : Word) : Byte := w.extractLsb' 0 8
/-- `nnn = w[11:0]` (R71). -/
def fieldNnn (w : Word) : Addr := w.extractLsb' 0 12

/-- Sub-table 0, keyed by kk (R76). The SYS row is chosen here whatever `SYS_MODE` is: its meaning reads the mode. -/
def subTable0 (w : Word) : Except DecodeError Instr :=
  match (fieldKk w).toNat with
  | 0xE0 => .ok .cls
  | 0xEE => .ok .ret
  | _ => .ok (.sys (fieldNnn w))

/-- Sub-table 8, keyed by n (R77). -/
def subTable8 (w : Word) : Except DecodeError Instr :=
  match (fieldN w).val with
  | 0x0 => .ok (.ldVxVy (fieldX w) (fieldY w))
  | 0x1 => .ok (.orVxVy (fieldX w) (fieldY w))
  | 0x2 => .ok (.andVxVy (fieldX w) (fieldY w))
  | 0x3 => .ok (.xorVxVy (fieldX w) (fieldY w))
  | 0x4 => .ok (.addVxVy (fieldX w) (fieldY w))
  | 0x5 => .ok (.subVxVy (fieldX w) (fieldY w))
  | 0x6 => .ok (.shrVx (fieldX w))
  | 0x7 => .ok (.subnVxVy (fieldX w) (fieldY w))
  | 0xE => .ok (.shlVx (fieldX w))
  | _ => .error .noRow8

/-- Sub-table E, keyed by kk (R78). -/
def subTableE (w : Word) : Except DecodeError Instr :=
  match (fieldKk w).toNat with
  | 0x9E => .ok (.skpVx (fieldX w))
  | 0xA1 => .ok (.sknpVx (fieldX w))
  | _ => .error .noRowE

/-- Sub-table F, keyed by kk (R79). -/
def subTableF (w : Word) : Except DecodeError Instr :=
  match (fieldKk w).toNat with
  | 0x07 => .ok (.ldVxDt (fieldX w))
  | 0x0A => .ok (.ldVxK (fieldX w))
  | 0x15 => .ok (.ldDtVx (fieldX w))
  | 0x18 => .ok (.ldStVx (fieldX w))
  | 0x1E => .ok (.addIVx (fieldX w))
  | 0x29 => .ok (.ldFVx (fieldX w))
  | 0x33 => .ok (.ldBVx (fieldX w))
  | 0x55 => .ok (.ldMemVx (fieldX w))
  | 0x65 => .ok (.ldVxMem (fieldX w))
  | _ => .error .noRowF

/-- The level-1 table, keyed by the top nibble (R73, R75), over the four sub-tables. -/
def decodeWord (w : Word) : Except DecodeError Instr :=
  match (fieldOp w).toNat with
  | 0x0 => subTable0 w
  | 0x1 => .ok (.jp (fieldNnn w))
  | 0x2 => .ok (.call (fieldNnn w))
  | 0x3 => .ok (.seVxKk (fieldX w) (fieldKk w))
  | 0x4 => .ok (.sneVxKk (fieldX w) (fieldKk w))
  | 0x5 => .ok (.seVxVy (fieldX w) (fieldY w))
  | 0x6 => .ok (.ldVxKk (fieldX w) (fieldKk w))
  | 0x7 => .ok (.addVxKk (fieldX w) (fieldKk w))
  | 0x8 => subTable8 w
  | 0x9 => .ok (.sneVxVy (fieldX w) (fieldY w))
  | 0xA => .ok (.ldINnn (fieldNnn w))
  | 0xB => .ok (.jpV0Nnn (fieldNnn w))
  | 0xC => .ok (.rndVxKk (fieldX w) (fieldKk w))
  | 0xD => .ok (.drwVxVyN (fieldX w) (fieldY w) (fieldN w))
  | 0xE => subTableE w
  | _ => subTableF w

/-- The word two bytes form, the byte at the lower address first: `(hi << 8) | lo` (R55). -/
def wordOfBytes (hi lo : Byte) : Word := hi ++ lo

/-- Decode from bytes in address order; an instruction takes exactly two (R70) and the rest is handed back. -/
def decodeBytes : List Byte → Except DecodeError (Instr × List Byte)
  | hi :: lo :: rest =>
    match decodeWord (wordOfBytes hi lo) with
    | .ok i => .ok (i, rest)
    | .error e => .error e
  | _ => .error .tooShort

/-- A word with the fields op, nnn. -/
def wordNnn (op : BitVec 4) (nnn : Addr) : Word := op ++ nnn
/-- A word with the fields op, x, kk. -/
def wordXKk (op : BitVec 4) (x : RegNum) (kk : Byte) : Word := (op ++ bitsOfReg x) ++ kk
/-- A word with the fields op, x, y, n. -/
def wordXYN (op : BitVec 4) (x y : RegNum) (n : BitVec 4) : Word :=
  (op ++ bitsOfReg x) ++ (bitsOfReg y ++ n)

/-- The canonical word of an instruction: the pattern of its row of R80, every ignored nibble 0 (R83). -/
def encode : Instr → Word
  | .sys nnn => wordNnn 0x0#4 nnn
  | .cls => 0x00E0#16
  | .ret => 0x00EE#16
  | .jp nnn => wordNnn 0x1#4 nnn
  | .call nnn => wordNnn 0x2#4 nnn
  | .seVxKk x kk => wordXKk 0x3#4 x kk
  | .sneVxKk x kk => wordXKk 0x4#4 x kk
  | .seVxVy x y => wordXYN 0x5#4 x y 0x0#4
  | .ldVxKk x kk => wordXKk 0x6#4 x kk
  | .addVxKk x kk => wordXKk 0x7#4 x kk
  | .ldVxVy x y => wordXYN 0x8#4 x y 0x0#4
  | .orVxVy x y => wordXYN 0x8#4 x y 0x1#4
  | .andVxVy x y => wordXYN 0x8#4 x y 0x2#4
  | .xorVxVy x y => wordXYN 0x8#4 x y 0x3#4
  | .addVxVy x y => wordXYN 0x8#4 x y 0x4#4
  | .subVxVy x y => wordXYN 0x8#4 x y 0x5#4
  | .shrVx x => wordXYN 0x8#4 x 0 0x6#4
  | .subnVxVy x y => wordXYN 0x8#4 x y 0x7#4
  | .shlVx x => wordXYN 0x8#4 x 0 0xE#4
  | .sneVxVy x y => wordXYN 0x9#4 x y 0x0#4
  | .ldINnn nnn => wordNnn 0xA#4 nnn
  | .jpV0Nnn nnn => wordNnn 0xB#4 nnn
  | .rndVxKk x kk => wordXKk 0xC#4 x kk
  | .drwVxVyN x y n => wordXYN 0xD#4 x y (bitsOfReg n)
  | .skpVx x => wordXKk 0xE#4 x 0x9E#8
  | .sknpVx x => wordXKk 0xE#4 x 0xA1#8
  | .ldVxDt x => wordXKk 0xF#4 x 0x07#8
  | .ldVxK x => wordXKk 0xF#4 x 0x0A#8
  | .ldDtVx x => wordXKk 0xF#4 x 0x15#8
  | .ldStVx x => wordXKk 0xF#4 x 0x18#8
  | .addIVx x => wordXKk 0xF#4 x 0x1E#8
  | .ldFVx x => wordXKk 0xF#4 x 0x29#8
  | .ldBVx x => wordXKk 0xF#4 x 0x33#8
  | .ldMemVx x => wordXKk 0xF#4 x 0x55#8
  | .ldVxMem x => wordXKk 0xF#4 x 0x65#8

/-- The bytes of a word as the hardware stores them, high byte first (R55). -/
def bytesOfWord (w : Word) : List Byte := [w.extractLsb' 8 8, w.extractLsb' 0 8]

/-- The bits of a word that the decoder examines or hands to the instruction: all but the ignored nibbles of R82. -/
def Instr.usedBits : Instr → Word
  | .cls | .ret => 0xF0FF#16
  | .seVxVy _ _ | .sneVxVy _ _ => 0xFFF0#16
  | .shrVx _ | .shlVx _ => 0xFF0F#16
  | _ => 0xFFFF#16

/-- The word of an instruction whose bits are `w` in the opcode table's numbering, of which the table gives `nbits`;
the bits above them are 0. One word is the longest instruction (R70). -/
def tableWord (nbits w : Nat) : Word := BitVec.ofNat 16 (w % 2 ^ nbits)

/-- What the decoder reads from the instruction whose bits are `w` (the host's question about each row). -/
def decodeTableWord (nbits w : Nat) : Option Instr :=
  match decodeBytes (bytesOfWord (tableWord nbits w)) with
  | .ok (i, _) => some i
  | .error _ => none

end Sys2Proof
end

