-- ==== Sys2Proof/Machine/Flags.lean ====
section
/-! DEFINITION. Machine/Flags.lean: the values VF takes as a flag, from operands read before any write (R100, R114). -/

namespace Sys2Proof.Machine

/-- `bool01` (R6): a flag value is always 0 or 1 (R21). -/
def bool01 (b : Bool) : Byte := if b then 0x01#8 else 0x00#8

/-- The carry of ADD Vx,Vy: the exact sum is over 255 (R108). -/
def carryOut (a b : Byte) : Bool := decide (a.toNat + b.toNat > 255)

/-- The no-borrow flag of SUB and SUBN: the minuend is strictly greater (R109, R111). -/
def strictlyAbove (minuend subtrahend : Byte) : Bool := decide (minuend.toNat > subtrahend.toNat)

/-- The bit SHR shifts out, bit 0 before the shift (R110). -/
def lowBit (a : Byte) : Bool := a &&& 0x01#8 == 0x01#8

/-- The bit SHL shifts out, bit 7 before the shift (R112). -/
def highBit (a : Byte) : Bool := a &&& 0x80#8 != 0x00#8

end Sys2Proof.Machine
end

