-- ==== Sys2Proof/Config.lean ====
section
/-! DEFINITION. Config.lean: the fixed parameters of 00_scope.md R5, and the free values. -/

namespace Sys2Proof.Config

/-- `MEM_SIZE` (R5): addresses 0x000–0xFFF. -/
def memSize : Nat := 0x1000

/-- `FONT_BASE` (R5). -/
def fontBase : Nat := 0x050

/-- `FONT_GLYPHS` × `GLYPH_BYTES` (R5): the font region is 0x050–0x09F. -/
def fontSize : Nat := 80

/-- `PROG_BASE` (R5): the reset PC and the load address. -/
def progBase : Nat := 0x200

/-- `STACK_DEPTH` (R5). -/
def stackDepth : Nat := 16

/-- The byte the random source gives to the `k`-th free draw of a run (R226, D19).
A free value: it has no body, so no proof can see which byte it is. DESIGN CHOICE, safe (log 8). -/
opaque randByte : Nat → Byte

/-- Whether the PC of a faulted core is the advanced one, `mask12 (a + 2)`, or the pre-step `a`; both are
admitted (R214, D14). A free value. DESIGN CHOICE, safe (log 10). -/
opaque faultPcAdvanced : Nat → Bool

/-- Whether the draw flag of a faulted core has been cleared or keeps its pre-step value; both are admitted
(R214, D14). A free value. DESIGN CHOICE, safe (log 10). -/
opaque faultFlagCleared : Nat → Bool

end Sys2Proof.Config
end

