-- ==== Sys2Proof/Machine/Font.lean ====
section
/-! DEFINITION. Machine/Font.lean: the default `FONT_DATA` of 10_state.md R45. -/

namespace Sys2Proof.Machine

/-- 16 glyphs of 5 bytes, digit order 0–F, top row first (R45). -/
abbrev Font := Vector (Vector Byte 5) 16

/-- The spec's default for `FONT_DATA` (R45). PRESUMED by the spec from general knowledge (GK2), unsafe (log 7). -/
def defaultFont : Font :=
  #v[#v[0xF0#8, 0x90#8, 0x90#8, 0x90#8, 0xF0#8],
     #v[0x20#8, 0x60#8, 0x20#8, 0x20#8, 0x70#8],
     #v[0xF0#8, 0x10#8, 0xF0#8, 0x80#8, 0xF0#8],
     #v[0xF0#8, 0x10#8, 0xF0#8, 0x10#8, 0xF0#8],
     #v[0x90#8, 0x90#8, 0xF0#8, 0x10#8, 0x10#8],
     #v[0xF0#8, 0x80#8, 0xF0#8, 0x10#8, 0xF0#8],
     #v[0xF0#8, 0x80#8, 0xF0#8, 0x90#8, 0xF0#8],
     #v[0xF0#8, 0x10#8, 0x20#8, 0x40#8, 0x40#8],
     #v[0xF0#8, 0x90#8, 0xF0#8, 0x90#8, 0xF0#8],
     #v[0xF0#8, 0x90#8, 0xF0#8, 0x10#8, 0xF0#8],
     #v[0xF0#8, 0x90#8, 0xF0#8, 0x90#8, 0x90#8],
     #v[0xE0#8, 0x90#8, 0xE0#8, 0x90#8, 0xE0#8],
     #v[0xF0#8, 0x80#8, 0x80#8, 0x80#8, 0xF0#8],
     #v[0xE0#8, 0x90#8, 0x90#8, 0x90#8, 0xE0#8],
     #v[0xF0#8, 0x80#8, 0xF0#8, 0x80#8, 0xF0#8],
     #v[0xF0#8, 0x80#8, 0xF0#8, 0x80#8, 0x80#8]]

/-- The byte at offset `k` of a font, glyph `k / 5`, row `k % 5` (R45). -/
def fontByte (f : Font) (k : Nat) : Byte := f[Fin.ofNat 16 (k / 5)][Fin.ofNat 5 (k % 5)]

/-- The 80 bytes of a font in address order. -/
def fontBytes (f : Font) : List Byte := (List.range Config.fontSize).map (fontByte f)

/-- Whether an address lies in the font region 0x050–0x09F (R51). -/
def inFont (a : Nat) : Bool := Config.fontBase ≤ a && a < Config.fontBase + Config.fontSize

end Sys2Proof.Machine
end

