-- ==== Sys2Proof/Machine/State.lean ====
section
/-! DEFINITION. Machine/State.lean: the state record of 10_state.md section 1, as plain data, and its reset value. -/

namespace Sys2Proof.Machine

/-- The direction of a checked access, part of an `OutOfRange` record (R59, R60, R210). -/
inductive Direction where
  | read
  | write
  deriving DecidableEq, Repr

/-- The five fault kinds with the info each records (R210). All are raised by `State.takeFault`; each leaves a
FAULTED core (R214). -/
inductive FaultCause where
  /-- Code 1: dispatch, for a word that selects no instruction, and SYS when `SYS_MODE` is fault (R211). -/
  | unsupportedOpcode (w : Word)
  /-- Code 2: CALL at depth 16 (R212); the target is recorded. -/
  | stackOverflow (target : Addr)
  /-- Code 3: RET at depth 0 (R212). -/
  | stackUnderflow
  /-- Code 4: a range check failed (R213); the bounds are unmasked. -/
  | outOfRange (lo hi : Nat) (dir : Direction)
  /-- Code 5: the second instruction byte lies past 0xFFF (R61, R213). -/
  | fetchOutOfRange
  deriving DecidableEq, Repr

/-- The fault record `(kind, fault_pc, info)`; kind and info are one datum (R37). -/
structure FaultRecord where
  cause : FaultCause
  faultPc : Word
  deriving DecidableEq, Repr

/-- `status` and `fault` (R37): the record is there exactly when the core is FAULTED. -/
inductive Status where
  | running
  | faulted (record : FaultRecord)
  deriving DecidableEq, Repr

/-- `SYS_MODE` (R5, D12). -/
inductive SysMode where
  | fault
  | nop
  deriving DecidableEq, Repr

/-- One entry of the change list: row, column and the pixel's new value (R35, R172). -/
structure PixelChange where
  row : Fin 32
  col : Fin 64
  value : Bool
  deriving DecidableEq, Repr

/-- The OPEN parameters of R5, which a machine is launched with and no step changes. They stand in State so that a
statement about every state holds for every value of them. DESIGN CHOICE, safe (log 1). -/
structure Params where
  /-- `WRITE_LO`, the lowest address a store may write (R60, D3). -/
  writeLo : Nat
  /-- `SYS_MODE` (R76, R130, D12). -/
  sysMode : SysMode
  /-- `SP_EMPTY`, the stack pointer's "empty" sentinel (R27, D18). -/
  spEmpty : Byte
  /-- `INIT_MEM`, memory outside the font at reset, in the canonical form of memory (R53, D16). -/
  initMem : List Host.Cell
  /-- `FONT_DATA` (R45, D30). -/
  fontData : Font
  /-- `INIT_LAST_RAND` (R34, D17). -/
  initLastRand : Byte
  deriving DecidableEq, Repr

/-- The parameters of `State.reset`: the spec's defaults for `WRITE_LO`, `SYS_MODE` and `FONT_DATA` (R5), and values
of the model for the three the spec gives none: DESIGN CHOICE, unsafe (logs 2 to 7). -/
def Params.defaults : Params where
  writeLo := 0x000
  sysMode := .fault
  spEmpty := 0xFF#8
  initMem := []
  fontData := defaultFont
  initLastRand := 0x00#8

/-- The display buffer, 32 rows of 64 columns (R31). -/
abbrev Grid := Vector (Vector Bool 64) 32

/-- Everything the core holds (10_state.md section 1, R39), the launch parameters, and one field of the model's own. -/
structure State where
  /-- `V[0..15]` (R20). -/
  v : Vector Byte 16
  /-- `I`, a 16-bit register whose bits 15:12 are always 0 (R23). -/
  i : Word
  /-- `PC`, a 16-bit register whose bits 15:12 are always 0 (R24). -/
  pc : Word
  /-- The return-address stack; the last element is the top (R8, R25). -/
  stack : List Word
  /-- `DT` (R28). -/
  dt : Byte
  /-- `ST` (R29). -/
  st : Byte
  /-- `mem` (R30), in the canonical form of `Memory.wf`. -/
  mem : List Host.Cell
  /-- `disp` (R31). -/
  disp : Grid
  /-- `key_cur` (R33). -/
  keyCur : Vector Bool 16
  /-- `key_prev` (R33). -/
  keyPrev : Vector Bool 16
  /-- `last_rand` (R34). -/
  lastRand : Byte
  /-- `change_list` (R35). -/
  changeList : List PixelChange
  /-- `draw_flag` (R36). -/
  drawFlag : Bool
  /-- `status` and `fault` (R37). -/
  status : Status
  /-- The launch parameters (R5). -/
  params : Params
  /-- THE MODEL'S OWN FIELD, no state of the spec: how many free values have been drawn (logs 8, 10). -/
  freeCount : Nat
  deriving DecidableEq, Repr

/-- Why a step is not taken: the core is FAULTED. -/
inductive Fault where
  /-- `step` on a FAULTED core, raised by `step` alone: "`step()` on it changes nothing and returns the fault record"
  (R215). Safe: nothing the spec lets the core do is stopped. -/
  | coreFaulted (record : FaultRecord)
  deriving DecidableEq, Repr

/-- Why an instruction has no meaning. Every instruction has one, so no arm of `exec` uses it. -/
inductive Refusal where
  /-- Raised by `exec`'s arm of an instruction that is not modelled yet (none is). Safe: the machine stops. -/
  | notModelled (mnemonic : String)
  deriving DecidableEq, Repr

/-- What a meaning answers. -/
abbrev Result := Host.Outcome State Fault Refusal

/-- The machine right after reset (R250), launched with `Params.defaults`. -/
def State.reset : State where
  v := Vector.replicate 16 0x00#8
  i := 0x0000#16
  pc := 0x0200#16
  stack := []
  dt := 0x00#8
  st := 0x00#8
  mem := []
  disp := Vector.replicate 32 (Vector.replicate 64 false)
  keyCur := Vector.replicate 16 false
  keyPrev := Vector.replicate 16 false
  lastRand := Params.defaults.initLastRand
  changeList := []
  drawFlag := false
  status := .running
  params := Params.defaults
  freeCount := 0

end Sys2Proof.Machine
end

