-- ==== Sys2Proof/Machine/Memory.lean ====
section
/-! DEFINITION. Machine/Memory.lean: the byte-addressed memory of 20_memory.md as a canonical list of cells. -/

namespace Sys2Proof.Machine

/-- What an address that is not listed reads as: the default font in 0x050–0x09F (R53), and 0 elsewhere, where the
spec gives no reset value: DESIGN CHOICE, unsafe (logs 5 and 7). -/
def Memory.unlisted (a : Nat) : Byte :=
  if inFont a then fontByte defaultFont (a - Config.fontBase) else 0x00#8

/-- `mem[a]` (R9). -/
def Memory.read : List Host.Cell → Nat → Byte
  | [], a => Memory.unlisted a
  | (k, b) :: m, a => if k = a then b else Memory.read m a

/-- Put a cell at its place in a rising list. -/
def Memory.insertCell (a : Nat) (b : Byte) : List Host.Cell → List Host.Cell
  | [] => [(a, b)]
  | (k, c) :: m => if a < k then (a, b) :: (k, c) :: m else (k, c) :: Memory.insertCell a b m

/-- Take the cells of an address out. -/
def Memory.erase (m : List Host.Cell) (a : Nat) : List Host.Cell := m.filter fun c => c.1 != a

/-- `mem[a] <- b` (R9). Writing what an unlisted address reads as removes the cell. -/
def Memory.write (m : List Host.Cell) (a : Nat) (b : Byte) : List Host.Cell :=
  if b = Memory.unlisted a then Memory.erase m a else Memory.insertCell a b (Memory.erase m a)

/-- Bytes written at `a`, `a + 1`, … in increasing address order (R57). -/
def Memory.writeBytes (m : List Host.Cell) (a : Nat) : List Byte → List Host.Cell
  | [] => m
  | b :: bs => Memory.writeBytes (Memory.write m a b) (a + 1) bs

/-- The `n` bytes at `a`, `a + 1`, … in increasing address order (R57). -/
def Memory.readBytes (m : List Host.Cell) (a n : Nat) : List Byte :=
  (List.range n).map fun k => Memory.read m (a + k)

/-- The canonical form from an address on: addresses strictly rising and below 0x1000, no cell equal to what its
address reads as when unlisted. -/
def Memory.wfFrom (lo : Nat) : List Host.Cell → Bool
  | [] => true
  | (k, b) :: m => decide (lo ≤ k) && decide (k < Config.memSize) && (b != Memory.unlisted k) && Memory.wfFrom (k + 1) m

/-- The canonical form of memory: equal memories are equal lists. -/
def Memory.wf (m : List Host.Cell) : Bool := Memory.wfFrom 0 m

end Sys2Proof.Machine
end

