-- ==== Sys2Proof/Machine/Ops.lean ====
section
/-! DEFINITION. Machine/Ops.lean: the named operations over the state, the start of an execute phase, fault entry. -/

namespace Sys2Proof.Machine

/-- `mask12` (R6): the remainder modulo 4096. Every write of `I` and `PC` passes through it (R23, R24). -/
def mask12 (w : Word) : Word := w % 0x1000#16

/-- `V[x]` (R8). -/
def State.readV (s : State) (x : RegNum) : Byte := s.v[x]

/-- `V[x] <- b` (R8, R22). -/
def State.setV (s : State) (x : RegNum) (b : Byte) : State := { s with v := s.v.set x b }

/-- All the general registers at once. -/
def State.setAllV (s : State) (v : Vector Byte 16) : State := { s with v := v }

/-- `I <- mask12(w)` (R23). -/
def State.setI (s : State) (w : Word) : State := { s with i := mask12 w }

/-- `PC <- mask12(w)` (R24). -/
def State.setPc (s : State) (w : Word) : State := { s with pc := mask12 w }

/-- The return-address stack replaced; only CALL and RET use it (R25). -/
def State.setStack (s : State) (st : List Word) : State := { s with stack := st }

/-- `push(w)` (R8): the last element is the top. -/
def State.push (s : State) (w : Word) : State := s.setStack (s.stack ++ [w])

/-- `depth` (R8). -/
def State.depth (s : State) : Nat := s.stack.length

/-- `DT <- b` (R28). -/
def State.setDt (s : State) (b : Byte) : State := { s with dt := b }

/-- `ST <- b` (R29). -/
def State.setSt (s : State) (b : Byte) : State := { s with st := b }

/-- `MemRead(a, 1)` (R9). -/
def State.readMem (s : State) (a : Nat) : Byte := Memory.read s.mem a

/-- Memory replaced. -/
def State.setMem (s : State) (m : List Host.Cell) : State := { s with mem := m }

/-- `MemWrite` of each byte in increasing address order (R9, R57). -/
def State.storeBytes (s : State) (a : Nat) (bs : List Byte) : State := s.setMem (Memory.writeBytes s.mem a bs)

/-- `disp[r][c]` (R11). -/
def State.pixel (s : State) (r : Fin 32) (c : Fin 64) : Bool := s.disp[r][c]

/-- The end of CLS and DRW: the new display, the change list it gives, and the draw flag set (R170, R171). -/
def State.present (s : State) (d : Grid) (changes : List PixelChange) : State :=
  { s with disp := d, changeList := changes, drawFlag := true }

/-- `key_cur[k]` (R33). -/
def State.keyDown (s : State) (k : RegNum) : Bool := s.keyCur[k]

/-- `key_prev[k]` (R33). -/
def State.keyWasDown (s : State) (k : RegNum) : Bool := s.keyPrev[k]

/-- `RandByte()` (R11, R226): the next free byte. -/
def State.nextRand (s : State) : Byte := Config.randByte s.freeCount

/-- The byte is drawn: `last_rand` holds it (R113) and the count of free values moves on. -/
def State.drawRand (s : State) : State := { s with lastRand := s.nextRand, freeCount := s.freeCount + 1 }

/-- How every execute phase starts (R85): the draw flag cleared, PC advanced past the instruction. -/
def State.enterExecute (s : State) : State := { s with drawFlag := false, pc := mask12 (s.pc + 2#16) }

/-- Fault entry (R214), from the state BEFORE the step: the status, the record with the address fetched from, and
the two values the rule leaves open: PC is the old one or `mask12(a + 2)`, the draw flag is the old one or false
(D14, log 10). Nothing else changes but the count of free values. -/
def State.takeFault (s : State) (c : FaultCause) : State :=
  { s with
    status := .faulted ⟨c, s.pc⟩
    pc := if Config.faultPcAdvanced s.freeCount then mask12 (s.pc + 2#16) else s.pc
    drawFlag := if Config.faultFlagCleared s.freeCount then false else s.drawFlag
    freeCount := s.freeCount + 1 }

/-- `raise F(info)` (R10): the step ends in the faulted state, which is a next state (log 9). -/
def raise (c : FaultCause) (s : State) : Result := .next (s.takeFault c)

/-- A check, then the effect: a failed check raises its fault from the pre-step state and nothing else happens (R9). -/
def checked (check : Option FaultCause) (s : State) (effect : State) : Result :=
  match check with
  | some c => raise c s
  | none => .next effect

/-- `CheckRead(lo, hi)` (R59): the bounds are not masked. -/
def checkRead (lo hi : Nat) : Option FaultCause :=
  if hi > 0xFFF then some (.outOfRange lo hi .read) else none

/-- `CheckWrite(lo, hi)` (R60): the bounds are not masked. -/
def State.checkWrite (s : State) (lo hi : Nat) : Option FaultCause :=
  if lo < s.params.writeLo ∨ hi > 0xFFF then some (.outOfRange lo hi .write) else none

/-- `Skip()` (R134): one more instruction width. -/
def State.skip (s : State) : State := s.setPc (s.pc + 2#16)

/-- `if cond: Skip()` (R134). -/
def State.skipIf (s : State) (cond : Bool) : State := if cond then s.skip else s

/-- The flag into VF first, the result into Vx second (R100): with x = F the result stays. -/
def State.setFlagThenV (s : State) (x : RegNum) (flag : Bool) (result : Byte) : State :=
  (s.setV VF (bool01 flag)).setV x result

end Sys2Proof.Machine
end

