-- ==== Sys2Proof/Machine/Operands.lean ====
section
/-! DEFINITION. Machine/Operands.lean: the operand forms: immediates, memory at I plus an offset, digits, glyphs,
keys, sprite positions. -/

namespace Sys2Proof.Machine

/-- An 8-bit operand as a 16-bit value, zero-extended (R72). -/
def zext8 (b : Byte) : Word := b.setWidth 16

/-- An address field as a 16-bit value, zero-extended (R72). -/
def zext12 (nnn : Addr) : Word := nnn.setWidth 16

/-- The one addressing mode, memory at I plus a constant offset, not masked (43_memory_access.md; R153–R155, R171). -/
def State.atI (s : State) (k : Nat) : Nat := s.i.toNat + k

/-- The decimal digits of LD B,Vx, hundreds first (R55, R153). -/
def bcdDigits (v : Byte) : List Byte :=
  [BitVec.ofNat 8 (v.toNat / 100), BitVec.ofNat 8 (v.toNat / 10 % 10), BitVec.ofNat 8 (v.toNat % 10)]

/-- The bytes of V0..Vx in order (R154). -/
def State.regsUpTo (s : State) (x : RegNum) : List Byte := s.v.toList.take (x.val + 1)

/-- The registers after V0..Vx have been loaded from I, I + 1, … (R155). -/
def State.loadedRegs (s : State) (x : RegNum) : Vector Byte 16 :=
  Vector.ofFn fun k => if k ≤ x then s.readMem (s.atI k.val) else s.readV k

/-- The address of the glyph the low nibble of a byte selects (R152). -/
def glyphAddr (v : Byte) : Word := BitVec.ofNat 16 (Config.fontBase + 5 * (v.toNat % 16))

/-- The key a register's value names, modulo 16 (R190). -/
def keyIndex (v : Byte) : RegNum := Fin.ofNat 16 v.toNat

/-- The row of sprite row `r` of a sprite at row `cy`, wrapping (R171). -/
def spriteRow (cy : Byte) (r : Nat) : Fin 32 := Fin.ofNat 32 (cy.toNat + r)

/-- The column of sprite column `c` of a sprite at column `cx`, wrapping (R171). -/
def spriteCol (cx : Byte) (c : Nat) : Fin 64 := Fin.ofNat 64 (cx.toNat + c)

/-- Sprite column `c` of a sprite byte; column 0 is bit 7 (R7, R171). -/
def spriteBit (b : Byte) (c : Nat) : Bool := b.getLsbD (7 - c)

end Sys2Proof.Machine
end

