-- ==== Sys2Proof/Machine/ControlFlow.lean ====
section
/-! DEFINITION. Machine/ControlFlow.lean: the 9 instructions of 42_control_flow.md. -/

namespace Sys2Proof.Machine

/-- SYS nnn (R130): an unsupported opcode, or nothing but the advance, by `SYS_MODE`. -/
def execSys (nnn : Addr) (s : State) : Result :=
  match s.params.sysMode with
  | .fault => raise (.unsupportedOpcode (encode (.sys nnn))) s
  | .nop => .next s.enterExecute

/-- JP nnn (R131). -/
def execJp (nnn : Addr) (s : State) : Result := .next (s.enterExecute.setPc (zext12 nnn))

/-- CALL nnn (R132): the pushed PC is the advanced one. -/
def execCall (nnn : Addr) (s : State) : Result :=
  let t := s.enterExecute
  checked (if s.depth ≥ Config.stackDepth then some (.stackOverflow nnn) else none) s
    ((t.push t.pc).setPc (zext12 nnn))

/-- RET (R133): the last element of the stack into PC. -/
def execRet (s : State) : Result :=
  match s.stack.getLast? with
  | none => raise .stackUnderflow s
  | some top => .next ((s.enterExecute.setStack s.stack.dropLast).setPc top)

/-- JP V0,nnn (R139). -/
def execJpV0Nnn (nnn : Addr) (s : State) : Result :=
  .next (s.enterExecute.setPc (zext12 nnn + zext8 (s.readV 0)))

/-- SE Vx,kk (R135). -/
def execSeVxKk (x : RegNum) (kk : Byte) (s : State) : Result := .next (s.enterExecute.skipIf (s.readV x == kk))

/-- SNE Vx,kk (R136). -/
def execSneVxKk (x : RegNum) (kk : Byte) (s : State) : Result := .next (s.enterExecute.skipIf (s.readV x != kk))

/-- SE Vx,Vy (R137). -/
def execSeVxVy (x y : RegNum) (s : State) : Result := .next (s.enterExecute.skipIf (s.readV x == s.readV y))

/-- SNE Vx,Vy (R138). -/
def execSneVxVy (x y : RegNum) (s : State) : Result := .next (s.enterExecute.skipIf (s.readV x != s.readV y))

end Sys2Proof.Machine
end

