-- ==== Sys2Proof/Machine/Display.lean ====
section
/-! DEFINITION. Machine/Display.lean: the 2 instructions of 44_display.md. -/

namespace Sys2Proof.Machine

/-- All pixels off (R31). -/
def blankGrid : Grid := Vector.replicate 32 (Vector.replicate 64 false)

/-- The lit pixels in row-major order, each with the new value false: the change list of CLS (R170). -/
def clearedPixels (d : Grid) : List PixelChange :=
  (List.finRange 32).flatMap fun r =>
    ((List.finRange 64).filter fun c => d[r][c]).map fun c => ⟨r, c, false⟩

/-- CLS (R170). -/
def execCls (s : State) : Result := .next (s.enterExecute.present blankGrid (clearedPixels s.disp))

/-- A draw in progress: the display, the change list so far, the sticky collision flag (R171). -/
structure Drawing where
  disp : Grid
  changes : List PixelChange
  collide : Bool
  deriving DecidableEq, Repr

/-- One pixel toggled, its change emitted, a collision noted when it was on (R171). -/
def Drawing.toggle (d : Drawing) (r : Fin 32) (c : Fin 64) : Drawing where
  disp := d.disp.set r (d.disp[r].set c (!d.disp[r][c]))
  changes := d.changes ++ [⟨r, c, !d.disp[r][c]⟩]
  collide := d.collide || d.disp[r][c]

/-- One sprite byte drawn at a row, left column first (R171). -/
def Drawing.row (d : Drawing) (r : Fin 32) (cx : Byte) (b : Byte) : Drawing :=
  (List.range 8).foldl (fun d c => if spriteBit b c then d.toggle r (spriteCol cx c) else d) d

/-- The sprite bytes drawn one below the other, from sprite row `k` on (R171). -/
def Drawing.rows (d : Drawing) (cx cy : Byte) : Nat → List Byte → Drawing
  | _, [] => d
  | k, b :: bs => Drawing.rows (d.row (spriteRow cy k) cx b) cx cy (k + 1) bs

/-- A whole draw: the change list starts empty, no collision yet (R171, R172). -/
def drawSprite (g : Grid) (cx cy : Byte) (sprite : List Byte) : Drawing :=
  Drawing.rows ⟨g, [], false⟩ cx cy 0 sprite

/-- The range check of DRW: none when the sprite has no rows (R171, D4, D5). -/
def State.checkSprite (s : State) (n : Count) : Option FaultCause :=
  if n.val = 0 then none else checkRead (s.atI 0) (s.atI (n.val - 1))

/-- What DRW draws: the coordinates and the sprite are read before anything is written (R171). -/
def State.spriteDrawing (s : State) (x y : RegNum) (n : Count) : Drawing :=
  drawSprite s.disp (s.readV x) (s.readV y) (Memory.readBytes s.mem (s.atI 0) n.val)

/-- DRW Vx,Vy,n (R171). -/
def execDrwVxVyN (x y : RegNum) (n : Count) (s : State) : Result :=
  let d := s.spriteDrawing x y n
  checked (s.checkSprite n) s ((s.enterExecute.present d.disp d.changes).setV VF (bool01 d.collide))

end Sys2Proof.Machine
end

