-- ==== Sys2Proof/Machine/Input.lean ====
section
/-! DEFINITION. Machine/Input.lean: the 3 instructions of 45_input.md. -/

namespace Sys2Proof.Machine

/-- SKP Vx (R190). -/
def execSkpVx (x : RegNum) (s : State) : Result :=
  .next (s.enterExecute.skipIf (s.keyDown (keyIndex (s.readV x))))

/-- SKNP Vx (R191). -/
def execSknpVx (x : RegNum) (s : State) : Result :=
  .next (s.enterExecute.skipIf (!s.keyDown (keyIndex (s.readV x))))

/-- The lowest key that was pressed before and is released now (R192, D11). -/
def State.releasedKey (s : State) : Option RegNum :=
  (List.finRange 16).find? fun k => s.keyWasDown k && !s.keyDown k

/-- LD Vx,K (R192): with no released key, PC goes back by one instruction width, so the same instruction runs again. -/
def execLdVxK (x : RegNum) (s : State) : Result :=
  let t := s.enterExecute
  match s.releasedKey with
  | none => .next (t.setPc (t.pc - 2#16))
  | some k => .next (t.setV x (BitVec.ofNat 8 k.val))

end Sys2Proof.Machine
end

