-- ==== Sys2Proof/Machine/MemoryAccess.lean ====
section
/-! DEFINITION. Machine/MemoryAccess.lean: the 6 instructions of 43_memory_access.md. -/

namespace Sys2Proof.Machine

/-- LD I,nnn (R150). -/
def execLdINnn (nnn : Addr) (s : State) : Result := .next (s.enterExecute.setI (zext12 nnn))

/-- ADD I,Vx (R151): masked to 12 bits, no flag. -/
def execAddIVx (x : RegNum) (s : State) : Result := .next (s.enterExecute.setI (s.i + zext8 (s.readV x)))

/-- LD F,Vx (R152): the glyph's address; memory is not read. -/
def execLdFVx (x : RegNum) (s : State) : Result := .next (s.enterExecute.setI (glyphAddr (s.readV x)))

/-- LD B,Vx (R153). -/
def execLdBVx (x : RegNum) (s : State) : Result :=
  checked (s.checkWrite (s.atI 0) (s.atI 2)) s (s.enterExecute.storeBytes (s.atI 0) (bcdDigits (s.readV x)))

/-- LD [I],Vx (R154). -/
def execLdMemVx (x : RegNum) (s : State) : Result :=
  checked (s.checkWrite (s.atI 0) (s.atI x.val)) s (s.enterExecute.storeBytes (s.atI 0) (s.regsUpTo x))

/-- LD Vx,[I] (R155). -/
def execLdVxMem (x : RegNum) (s : State) : Result :=
  checked (checkRead (s.atI 0) (s.atI x.val)) s (s.enterExecute.setAllV (s.loadedRegs x))

end Sys2Proof.Machine
end

