-- ==== Sys2Proof/Machine/RegisterAlu.lean ====
section
/-! DEFINITION. Machine/RegisterAlu.lean: the 12 instructions of 41_register_alu.md. -/

namespace Sys2Proof.Machine

/-- LD Vx,kk (R101). -/
def execLdVxKk (x : RegNum) (kk : Byte) (s : State) : Result := .next (s.enterExecute.setV x kk)

/-- ADD Vx,kk (R102): no flag. -/
def execAddVxKk (x : RegNum) (kk : Byte) (s : State) : Result := .next (s.enterExecute.setV x (s.readV x + kk))

/-- LD Vx,Vy (R103): no flag. -/
def execLdVxVy (x y : RegNum) (s : State) : Result := .next (s.enterExecute.setV x (s.readV y))

/-- OR Vx,Vy (R104): no flag. -/
def execOrVxVy (x y : RegNum) (s : State) : Result := .next (s.enterExecute.setV x (s.readV x ||| s.readV y))

/-- AND Vx,Vy (R105): no flag. -/
def execAndVxVy (x y : RegNum) (s : State) : Result := .next (s.enterExecute.setV x (s.readV x &&& s.readV y))

/-- XOR Vx,Vy (R106): no flag. -/
def execXorVxVy (x y : RegNum) (s : State) : Result := .next (s.enterExecute.setV x (s.readV x ^^^ s.readV y))

/-- ADD Vx,Vy (R108). -/
def execAddVxVy (x y : RegNum) (s : State) : Result :=
  let a := s.readV x
  let b := s.readV y
  .next (s.enterExecute.setFlagThenV x (carryOut a b) (a + b))

/-- SUB Vx,Vy (R109). -/
def execSubVxVy (x y : RegNum) (s : State) : Result :=
  let a := s.readV x
  let b := s.readV y
  .next (s.enterExecute.setFlagThenV x (strictlyAbove a b) (a - b))

/-- SHR Vx (R110). -/
def execShrVx (x : RegNum) (s : State) : Result :=
  let a := s.readV x
  .next (s.enterExecute.setFlagThenV x (lowBit a) (a >>> 1))

/-- SUBN Vx,Vy (R111). -/
def execSubnVxVy (x y : RegNum) (s : State) : Result :=
  let a := s.readV x
  let b := s.readV y
  .next (s.enterExecute.setFlagThenV x (strictlyAbove b a) (b - a))

/-- SHL Vx (R112). -/
def execShlVx (x : RegNum) (s : State) : Result :=
  let a := s.readV x
  .next (s.enterExecute.setFlagThenV x (highBit a) (a <<< 1))

/-- RND Vx,kk (R113). -/
def execRndVxKk (x : RegNum) (kk : Byte) (s : State) : Result :=
  .next (s.enterExecute.drawRand.setV x (s.nextRand &&& kk))

end Sys2Proof.Machine
end

