-- ==== Sys2Proof/Machine/Timers.lean ====
section
/-! DEFINITION. Machine/Timers.lean: the 3 instructions of 46_timers.md. -/

namespace Sys2Proof.Machine

/-- LD Vx,DT (R200). -/
def execLdVxDt (x : RegNum) (s : State) : Result := .next (s.enterExecute.setV x s.dt)

/-- LD DT,Vx (R201). -/
def execLdDtVx (x : RegNum) (s : State) : Result := .next (s.enterExecute.setDt (s.readV x))

/-- LD ST,Vx (R202). -/
def execLdStVx (x : RegNum) (s : State) : Result := .next (s.enterExecute.setSt (s.readV x))

end Sys2Proof.Machine
end

