-- ==== Sys2Proof/Machine/Fetch.lean ====
section
/-! DEFINITION. Machine/Fetch.lean: the fetch and dispatch phases of 30_encoding.md R85, and the host's placing of a word. -/

namespace Sys2Proof.Machine

/-- The two bytes at PC, PC + 1, the second address not masked (R61, R85). -/
def State.fetchBytes (s : State) : Except FaultCause (List Byte) :=
  if s.pc.toNat + 1 > 0xFFF then .error .fetchOutOfRange
  else .ok [s.readMem s.pc.toNat, s.readMem (s.pc.toNat + 1)]

/-- The word at PC, high byte first (R55). -/
def State.wordAtPc (s : State) : Word := wordOfBytes (s.readMem s.pc.toNat) (s.readMem (s.pc.toNat + 1))

/-- Fetch, decode and dispatch (R85): the instruction at PC, or the fault of the phase that fails first (R216). -/
def State.fetchInstr (s : State) : Except FaultCause Instr :=
  match s.fetchBytes with
  | .error c => .error c
  | .ok bs =>
    match decodeBytes bs with
    | .ok (i, _) => .ok i
    | .error _ => .error (.unsupportedOpcode s.wordAtPc)

/-- A state whose next step fetches: RUNNING, and PC where two bytes can be fetched. A state that fetches already is
left as it is; one that does not takes the status and the PC of reset for them. -/
def State.readyToFetch (s : State) : State :=
  { s with
    status := .running
    pc := if s.pc.toNat + 1 > 0xFFF then BitVec.ofNat 16 Config.progBase else s.pc }

/-- A word placed at PC, PC + 1, high byte first (R55): the bytes of a `loadProgram` (R232, log 11). -/
def State.placeWord (s : State) (w : Word) : State :=
  let t := s.readyToFetch
  t.storeBytes t.pc.toNat (bytesOfWord w)

end Sys2Proof.Machine
end

