-- ==== Sys2Proof/Machine/Step.lean ====
section
/-! DEFINITION. Machine/Step.lean: one `step()` (30_encoding.md R85), and the host's placing of the next instruction. -/

namespace Sys2Proof.Machine

/-- One step (R85): a FAULTED core takes none and gives its record back (R215); a RUNNING one fetches, dispatches and
executes, and a fault of the fetch or of the dispatch is taken before any other effect (R61, R74). -/
def step (s : State) : Host.Outcome State Fault Refusal :=
  match s.status with
  | .faulted r => .fault (.coreFaulted r)
  | .running =>
    match s.fetchInstr with
    | .error c => raise c s
    | .ok i => exec i s

/-- `s` with the instruction whose bits are `w` stored where `step` fetches next (log 11). -/
def State.withFetchWord (s : State) (nbits w : Nat) : State := s.placeWord (tableWord nbits w)

end Sys2Proof.Machine
end

