-- ==== Sys2Proof/Machine/HostOps.lean ====
section
/-! DEFINITION. Machine/HostOps.lean: the host operations of 60_exceptions.md R225–R237 other than `step`, and reset
(70_reset_and_hazards.md R250). -/

namespace Sys2Proof.Machine

/-- Why a host operation is refused; the state is then unchanged. These are no faults of the core (R210). -/
inductive HostError where
  /-- A register or key index above 15, or a memory range past 0xFFF (R236, R237). -/
  | rangeError
  /-- A program longer than 3584 bytes (R232, D25). -/
  | tooLong
  deriving DecidableEq, Repr

/-- Memory at reset: `INIT_MEM`, then the font over 0x050–0x09F (R250). -/
def resetMemory (p : Params) : List Host.Cell :=
  Memory.writeBytes p.initMem Config.fontBase (fontBytes p.fontData)

/-- The reset state of a machine launched with the parameters `p` (R250). The count of free values is the model's. -/
def State.resetWith (p : Params) (freeCount : Nat) : State :=
  { State.reset with mem := resetMemory p, lastRand := p.initLastRand, params := p, freeCount := freeCount }

/-- `reset()` (R250), available in every status (D34). The random source is not reset: it is the host's (R226). -/
def State.hostReset (s : State) : State := State.resetWith s.params s.freeCount

/-- One timer counted down, never below 0 (R225). -/
def countDown (t : Byte) : Byte := if t.toNat > 0 then t - 1 else t

/-- `tickTimers()` (R225), in every status (D33). -/
def State.tickTimers (s : State) : State := { s with dt := countDown s.dt, st := countDown s.st }

/-- `setKey(k, p)` for a key there is (R235): a call that does not change the key's state changes nothing (D23). -/
def State.changeKey (s : State) (k : RegNum) (p : Bool) : State :=
  if s.keyCur[k] = p then s
  else { s with keyPrev := s.keyPrev.set k s.keyCur[k], keyCur := s.keyCur.set k p }

/-- `setKey(k, p)` for any index (R235, R236). -/
def State.setKey (s : State) (k : Nat) (p : Bool) : Except HostError State :=
  if h : k < 16 then .ok (s.changeKey ⟨k, h⟩ p) else .error .rangeError

/-- `loadProgram(bytes)` (R232). -/
def State.loadProgram (s : State) (bytes : List Byte) : Except HostError State :=
  if bytes.length ≤ Config.memSize - Config.progBase then .ok (s.storeBytes Config.progBase bytes)
  else .error .tooLong

/-- `SP`, derived from the stack's depth (R27). -/
def State.sp (s : State) : Byte := s.params.spEmpty + BitVec.ofNat 8 s.depth

/-- `SP` as the diagnostic accessors read it, a signed 8-bit value (R27). -/
def State.spSigned (s : State) : Int := s.sp.toInt

/-- The accessor of a general register (R237). -/
def State.peekV (s : State) (k : Nat) : Except HostError Byte :=
  if h : k < 16 then .ok (s.readV ⟨k, h⟩) else .error .rangeError

/-- The accessor of a key's current and previous state (R237). -/
def State.peekKey (s : State) (k : Nat) : Except HostError (Bool × Bool) :=
  if h : k < 16 then .ok (s.keyDown ⟨k, h⟩, s.keyWasDown ⟨k, h⟩) else .error .rangeError

/-- The accessor of a memory range, both ends included (R237, D24). DESIGN CHOICE, safe (log 23): a reversed range,
`lo > hi`, holds no byte, so with `hi` at most 0xFFF it gives the empty list, wherever `lo` lies. -/
def State.peekMem (s : State) (lo hi : Nat) : Except HostError (List Byte) :=
  if hi > 0xFFF then .error .rangeError else .ok (Memory.readBytes s.mem lo (hi + 1 - lo))

/-- The accessor of the fault record (R237). -/
def State.faultRecord (s : State) : Option FaultRecord :=
  match s.status with
  | .running => none
  | .faulted r => some r

/-- The cause code of a fault kind (R210, D15). -/
def faultCode : FaultCause → Nat
  | .unsupportedOpcode _ => 1
  | .stackOverflow _ => 2
  | .stackUnderflow => 3
  | .outOfRange _ _ _ => 4
  | .fetchOutOfRange => 5

end Sys2Proof.Machine
end

