-- ==== Sys2Proof/Machine/HostRun.lean ====
section
/-! DEFINITION. Machine/HostRun.lean: any interleaving of the host operations (60_exceptions.md R230, R238). -/

namespace Sys2Proof.Machine

/-- The operations that change the core (R230). Accessors are left out: they change nothing (R237). -/
inductive HostOp where
  | reset
  | loadProgram (bytes : List Byte)
  | step
  | tickTimers
  | setKey (k : Nat) (pressed : Bool)
  deriving DecidableEq, Repr

/-- What the host gets back (R230). -/
inductive HostReply where
  | nothing
  | running
  | faulted (record : FaultRecord)
  | error (e : HostError)
  deriving DecidableEq, Repr

/-- The state of a mutating operation that may be refused: unchanged when it is. -/
def orUnchanged (s : State) : Except HostError State → State
  | .ok t => t
  | .error _ => s

/-- The state after one step: unchanged when the core takes none (R215). -/
def State.afterStep (s : State) : State :=
  match step s with
  | .next t => t
  | .fault _ => s
  | .refused _ => s

/-- The state after a host operation; each is atomic (R238). -/
def hostApply (s : State) : HostOp → State
  | .reset => s.hostReset
  | .loadProgram bytes => orUnchanged s (s.loadProgram bytes)
  | .step => s.afterStep
  | .tickTimers => s.tickTimers
  | .setKey k p => orUnchanged s (s.setKey k p)

/-- What a refused operation gives back. -/
def replyOf : Except HostError State → HostReply
  | .ok _ => .nothing
  | .error e => .error e

/-- What a step gives back: RUNNING, or the fault record (R230). -/
def stepReply (t : State) : HostReply :=
  match t.status with
  | .running => .running
  | .faulted r => .faulted r

/-- What a host operation gives back (R230). -/
def hostReply (s : State) : HostOp → HostReply
  | .reset => .nothing
  | .loadProgram bytes => replyOf (s.loadProgram bytes)
  | .step => stepReply s.afterStep
  | .tickTimers => .nothing
  | .setKey k p => replyOf (s.setKey k p)

/-- A run: the host's operations in the order it makes them, every order being admitted (R238, R252). -/
def hostRun (s : State) (ops : List HostOp) : State := ops.foldl hostApply s

end Sys2Proof.Machine
end

