-- ==== Sys2Proof/Safety.lean ====
section
/-! DEFINITION. Safety.lean: the terms claims are made in: legal states, completion, what a step may touch, a run's end. -/

namespace Sys2Proof.Machine

/-- A legal value of a 12-bit register held in 16 bits (R23, R24). -/
def inSpace (w : Word) : Prop := w.toNat ≤ 0xFFF

/-- What every reachable state satisfies: I and PC are 12-bit values (R23, R24), the stack is no deeper than 16 and
holds 12-bit values (R25, R26), and memory and the launch image keep their canonical form. -/
structure State.Legal (s : State) : Prop where
  i_inSpace : inSpace s.i
  pc_inSpace : inSpace s.pc
  depth_le : s.depth ≤ Config.stackDepth
  stack_inSpace : ∀ w ∈ s.stack, inSpace w
  mem_wf : Memory.wf s.mem = true
  initMem_wf : Memory.wf s.params.initMem = true

/-- A reachable state: what some sequence of host operations leaves, from the reset of a machine launched with
canonical parameters (R238, R252). -/
def Reachable (s : State) : Prop :=
  ∃ (p : Params) (n : Nat) (ops : List HostOp),
    Memory.wf p.initMem = true ∧ s = hostRun (State.resetWith p n) ops

/-- All of the state but the general registers, PC and the draw flag is as before. The draw flag is left out because every
step clears it at its start (R85): what it reads afterwards is one statement over every instruction (R36). -/
structure OnlyRegsAndPc (s t : State) : Prop where
  i : t.i = s.i
  stack : t.stack = s.stack
  dt : t.dt = s.dt
  st : t.st = s.st
  mem : ∀ a, t.readMem a = s.readMem a
  disp : ∀ r c, t.pixel r c = s.pixel r c
  keyDown : ∀ k, t.keyDown k = s.keyDown k
  keyWasDown : ∀ k, t.keyWasDown k = s.keyWasDown k
  lastRand : t.lastRand = s.lastRand
  changeList : t.changeList = s.changeList
  status : t.status = s.status
  params : t.params = s.params
  freeCount : t.freeCount = s.freeCount

/-- Every general register but those listed holds what it held. -/
def KeepsRegsBut (written : List RegNum) (s t : State) : Prop :=
  ∀ r : RegNum, r ∉ written → t.readV r = s.readV r

/-- PC is one instruction width past the instruction, wrapping at the top of memory (R24, R85). -/
def Advanced (s t : State) : Prop := t.pc.toNat = (s.pc.toNat + 2) % 4096

/-- What a fault leaves (R214): FAULTED with the record, PC one of two values, the draw flag one of two, all else as
before (the count of free values is the model's own). -/
structure Faulted (s t : State) (c : FaultCause) : Prop where
  status : t.status = .faulted ⟨c, s.pc⟩
  pc : t.pc = s.pc ∨ Advanced s t
  drawFlag : t.drawFlag = s.drawFlag ∨ t.drawFlag = false
  v : ∀ r, t.readV r = s.readV r
  i : t.i = s.i
  stack : t.stack = s.stack
  dt : t.dt = s.dt
  st : t.st = s.st
  mem : ∀ a, t.readMem a = s.readMem a
  disp : ∀ r c, t.pixel r c = s.pixel r c
  keyDown : ∀ k, t.keyDown k = s.keyDown k
  keyWasDown : ∀ k, t.keyWasDown k = s.keyWasDown k
  lastRand : t.lastRand = s.lastRand
  changeList : t.changeList = s.changeList
  params : t.params = s.params

/-- The registers an instruction names as its destination (R20, R21): VF as a flag is not among them. -/
def destinations : Instr → List RegNum
  | .ldVxKk x _ | .addVxKk x _ | .ldVxVy x _ | .orVxVy x _ | .andVxVy x _ | .xorVxVy x _ | .addVxVy x _
  | .subVxVy x _ | .shrVx x | .subnVxVy x _ | .shlVx x | .rndVxKk x _ | .ldVxDt x | .ldVxK x => [x]
  | .ldVxMem x => (List.finRange 16).filter fun k => k ≤ x
  | .sys _ | .cls | .ret | .jp _ | .call _ | .seVxKk _ _ | .sneVxKk _ _ | .seVxVy _ _ | .sneVxVy _ _ | .ldINnn _
  | .jpV0Nnn _ | .drwVxVyN _ _ _ | .skpVx _ | .sknpVx _ | .ldDtVx _ | .ldStVx _ | .addIVx _ | .ldFVx _ | .ldBVx _
  | .ldMemVx _ => []

/-- The instructions that write VF as a flag (R21). -/
def setsFlag : Instr → Bool
  | .addVxVy _ _ | .subVxVy _ _ | .shrVx _ | .subnVxVy _ _ | .shlVx _ | .drwVxVyN _ _ _ => true
  | .sys _ | .cls | .ret | .jp _ | .call _ | .seVxKk _ _ | .sneVxKk _ _ | .seVxVy _ _ | .sneVxVy _ _ | .ldVxKk _ _
  | .addVxKk _ _ | .ldVxVy _ _ | .orVxVy _ _ | .andVxVy _ _ | .xorVxVy _ _ | .ldINnn _ | .jpV0Nnn _ | .rndVxKk _ _
  | .skpVx _ | .sknpVx _ | .ldVxDt _ | .ldVxK _ | .ldDtVx _ | .ldStVx _ | .addIVx _ | .ldFVx _ | .ldBVx _
  | .ldMemVx _ | .ldVxMem _ => false

/-- How many bytes an instruction stores, from the address in I on (R52, R54). -/
def bytesStored : Instr → Nat
  | .ldBVx _ => 3
  | .ldMemVx x => x.val + 1
  | .sys _ | .cls | .ret | .jp _ | .call _ | .seVxKk _ _ | .sneVxKk _ _ | .seVxVy _ _ | .sneVxVy _ _ | .ldVxKk _ _
  | .addVxKk _ _ | .ldVxVy _ _ | .orVxVy _ _ | .andVxVy _ _ | .xorVxVy _ _ | .addVxVy _ _ | .subVxVy _ _ | .shrVx _
  | .subnVxVy _ _ | .shlVx _ | .ldINnn _ | .jpV0Nnn _ | .rndVxKk _ _ | .drwVxVyN _ _ _ | .skpVx _ | .sknpVx _
  | .ldVxDt _ | .ldVxK _ | .ldDtVx _ | .ldStVx _ | .addIVx _ | .ldFVx _ | .ldVxMem _ => 0

/-- The fault kinds an instruction can raise once it is dispatched, by their codes (R210, R216). -/
def ownFaultCodes : Instr → List Nat
  | .sys _ => [1]
  | .call _ => [2]
  | .ret => [3]
  | .ldBVx _ | .ldMemVx _ | .ldVxMem _ | .drwVxVyN _ _ _ => [4]
  | .cls | .jp _ | .seVxKk _ _ | .sneVxKk _ _ | .seVxVy _ _ | .sneVxVy _ _ | .ldVxKk _ _ | .addVxKk _ _
  | .ldVxVy _ _ | .orVxVy _ _ | .andVxVy _ _ | .xorVxVy _ _ | .addVxVy _ _ | .subVxVy _ _ | .shrVx _ | .subnVxVy _ _
  | .shlVx _ | .ldINnn _ | .jpV0Nnn _ | .rndVxKk _ _ | .skpVx _ | .sknpVx _ | .ldVxDt _ | .ldVxK _ | .ldDtVx _
  | .ldStVx _ | .addIVx _ | .ldFVx _ => []

/-- A run has ended badly: the core is FAULTED (R242). -/
def State.endedBadly (s : State) : Bool := s.status != .running

/-- A run has ended well, by the spec's convention of claims (R242, D39): RUNNING at a jump to itself. -/
def State.endedWell (s : State) : Bool := s.status == .running && s.fetchInstr == .ok (.jp (s.pc.setWidth 12))

end Sys2Proof.Machine
end

