-- ==== Sys2Proof/Certificates/Slice0/Obligations.lean ====
section
/-! DEFINITION. Certificates/Slice0/Obligations.lean: the statements for the provers, about the spec's numbered rules. -/

open Sys2Proof Sys2Proof.Machine

/-! ## Register and arithmetic instructions (41_register_alu.md) -/

/-- R101. LD Vx,kk writes kk to Vx, VF when x = F, and nothing else but the advance. -/
def Obligations.LoadImmediateWritesOnlyVx : Prop :=
  ∀ (x : RegNum) (kk : Byte) (s : State), ∃ t, exec (.ldVxKk x kk) s = .next t ∧
    t.readV x = kk ∧ KeepsRegsBut [x] s t ∧ Advanced s t ∧ OnlyRegsAndPc s t

/-- R102: wrap-around addition with no flag; that there is no flag and what is added are decisions D7 and D26. -/
def Obligations.AddImmediateWrapsWithNoFlag : Prop :=
  ∀ (x : RegNum) (kk : Byte) (s : State), ∃ t, exec (.addVxKk x kk) s = .next t ∧
    (t.readV x).toNat = ((s.readV x).toNat + kk.toNat) % 256 ∧
    KeepsRegsBut [x] s t ∧ Advanced s t ∧ OnlyRegsAndPc s t

/-- R103–R106: each bit of the result is that bit of Vy, or the OR, AND, XOR of the two bits; no flag. The semantics
are decisions D26 and D6. -/
def Obligations.CopyAndLogicWriteOnlyVx : Prop :=
  ∀ (x y : RegNum) (s : State),
    (∃ t, exec (.ldVxVy x y) s = .next t ∧ t.readV x = s.readV y ∧
      KeepsRegsBut [x] s t ∧ Advanced s t ∧ OnlyRegsAndPc s t) ∧
    (∃ t, exec (.orVxVy x y) s = .next t ∧
      (∀ k < 8, (t.readV x).getLsbD k = ((s.readV x).getLsbD k || (s.readV y).getLsbD k)) ∧
      KeepsRegsBut [x] s t ∧ Advanced s t ∧ OnlyRegsAndPc s t) ∧
    (∃ t, exec (.andVxVy x y) s = .next t ∧
      (∀ k < 8, (t.readV x).getLsbD k = ((s.readV x).getLsbD k && (s.readV y).getLsbD k)) ∧
      KeepsRegsBut [x] s t ∧ Advanced s t ∧ OnlyRegsAndPc s t) ∧
    (∃ t, exec (.xorVxVy x y) s = .next t ∧
      (∀ k < 8, (t.readV x).getLsbD k = ((s.readV x).getLsbD k ^^ (s.readV y).getLsbD k)) ∧
      KeepsRegsBut [x] s t ∧ Advanced s t ∧ OnlyRegsAndPc s t)

/-- R108, R100: the sum modulo 256 into Vx; VF is 1 exactly when the exact sum is over 255, unless Vx is VF, which then
keeps the sum (decision D10). -/
def Obligations.AddWritesCarryThenSum : Prop :=
  ∀ (x y : RegNum) (s : State), ∃ t, exec (.addVxVy x y) s = .next t ∧
    (t.readV x).toNat = ((s.readV x).toNat + (s.readV y).toNat) % 256 ∧
    (x ≠ VF → (t.readV VF).toNat = if (s.readV x).toNat + (s.readV y).toNat > 255 then 1 else 0) ∧
    KeepsRegsBut [x, VF] s t ∧ Advanced s t ∧ OnlyRegsAndPc s t

/-- R109, R111, R100: the difference modulo 256 into Vx; VF is 1 exactly when the minuend is strictly greater, unless
Vx is VF, which then keeps the difference (decision D10). -/
def Obligations.SubtractionsWriteNoBorrowThenDifference : Prop :=
  ∀ (x y : RegNum) (s : State),
    (∃ t, exec (.subVxVy x y) s = .next t ∧
      ((t.readV x).toNat : Int) = (((s.readV x).toNat : Int) - (s.readV y).toNat) % 256 ∧
      (x ≠ VF → (t.readV VF).toNat = if (s.readV x).toNat > (s.readV y).toNat then 1 else 0) ∧
      KeepsRegsBut [x, VF] s t ∧ Advanced s t ∧ OnlyRegsAndPc s t) ∧
    (∃ t, exec (.subnVxVy x y) s = .next t ∧
      ((t.readV x).toNat : Int) = (((s.readV y).toNat : Int) - (s.readV x).toNat) % 256 ∧
      (x ≠ VF → (t.readV VF).toNat = if (s.readV y).toNat > (s.readV x).toNat then 1 else 0) ∧
      KeepsRegsBut [x, VF] s t ∧ Advanced s t ∧ OnlyRegsAndPc s t)

/-- R110, R112, R100: half, and twice modulo 256, into Vx; VF is the bit shifted out, unless Vx is VF, which then keeps
the result (decision D10). -/
def Obligations.ShiftsWriteTheBitShiftedOut : Prop :=
  ∀ (x : RegNum) (s : State),
    (∃ t, exec (.shrVx x) s = .next t ∧ (t.readV x).toNat = (s.readV x).toNat / 2 ∧
      (x ≠ VF → (t.readV VF).toNat = (s.readV x).toNat % 2) ∧
      KeepsRegsBut [x, VF] s t ∧ Advanced s t ∧ OnlyRegsAndPc s t) ∧
    (∃ t, exec (.shlVx x) s = .next t ∧ (t.readV x).toNat = 2 * (s.readV x).toNat % 256 ∧
      (x ≠ VF → (t.readV VF).toNat = (s.readV x).toNat / 128) ∧
      KeepsRegsBut [x, VF] s t ∧ Advanced s t ∧ OnlyRegsAndPc s t)

/-- R113: Vx takes the byte drawn masked by kk and last_rand takes it whole; all else is as before but the advance. That
the byte is Config.randByte of freeCount, whatever it is, and that freeCount moves on by one, so that the next draw is a
new one, is the model's choice (log 8) for the byte R226 and decision D19 leave open. -/
def Obligations.RandomByteIsMaskedAndRemembered : Prop :=
  ∀ (x : RegNum) (kk : Byte) (s : State), ∃ t, exec (.rndVxKk x kk) s = .next t ∧
    t.lastRand = s.nextRand ∧ t.readV x = s.nextRand &&& kk ∧ t.freeCount = s.freeCount + 1 ∧
    KeepsRegsBut [x] s t ∧ Advanced s t ∧
    OnlyRegsAndPc s { t with lastRand := s.lastRand, freeCount := s.freeCount }

/-! ## Control flow (42_control_flow.md) -/

/-- R130, D12: with SYS_MODE fault the word is an unsupported opcode; with SYS_MODE nop only PC advances. -/
def Obligations.SysFollowsItsMode : Prop :=
  ∀ (nnn : Addr) (s : State),
    (s.params.sysMode = .nop → ∃ t, exec (.sys nnn) s = .next t ∧
      KeepsRegsBut [] s t ∧ Advanced s t ∧ OnlyRegsAndPc s t) ∧
    (s.params.sysMode = .fault → ∃ t, exec (.sys nnn) s = .next t ∧
      Faulted s t (.unsupportedOpcode (BitVec.ofNat 16 nnn.toNat)))

/-- R131, R139: PC takes nnn, and nnn + V0 modulo 4096. -/
def Obligations.JumpsWriteOnlyPc : Prop :=
  ∀ (nnn : Addr) (s : State),
    (∃ t, exec (.jp nnn) s = .next t ∧ t.pc.toNat = nnn.toNat ∧ KeepsRegsBut [] s t ∧ OnlyRegsAndPc s t) ∧
    (∃ t, exec (.jpV0Nnn nnn) s = .next t ∧ t.pc.toNat = (nnn.toNat + (s.readV 0).toNat) % 4096 ∧
      KeepsRegsBut [] s t ∧ OnlyRegsAndPc s t)

/-- R132: below depth 16 the advanced PC is pushed and PC takes nnn; at depth 16 the fault is taken and the stack is as
it was. That a fault leaves the core FAULTED with its record is decision D14, that this is a next state is log 9. -/
def Obligations.CallPushesTheAdvancedPc : Prop :=
  ∀ (nnn : Addr) (s : State),
    (s.depth < 16 → ∃ t ret, exec (.call nnn) s = .next t ∧ t.pc.toNat = nnn.toNat ∧
      t.stack = s.stack ++ [ret] ∧ ret.toNat = (s.pc.toNat + 2) % 4096 ∧
      KeepsRegsBut [] s t ∧ OnlyRegsAndPc s { t with stack := s.stack }) ∧
    (s.depth = 16 → ∃ t, exec (.call nnn) s = .next t ∧
      t.status = .faulted ⟨.stackOverflow nnn, s.pc⟩ ∧ t.stack = s.stack)

/-- R133: the last element of the stack is taken off and PC takes it modulo 4096; on an empty stack the fault is taken
and the stack is as it was. That a fault leaves the core FAULTED with its record is decision D14, that this is a next
state is log 9. -/
def Obligations.ReturnPopsIntoPc : Prop :=
  ∀ s : State,
    (∀ rest top, s.stack = rest ++ [top] → ∃ t, exec .ret s = .next t ∧ t.pc.toNat = top.toNat % 4096 ∧
      t.stack = rest ∧ KeepsRegsBut [] s t ∧ OnlyRegsAndPc s { t with stack := s.stack }) ∧
    (s.stack = [] → ∃ t, exec .ret s = .next t ∧
      t.status = .faulted ⟨.stackUnderflow, s.pc⟩ ∧ t.stack = s.stack)

/-- R132, R133 and the source's property E2: CALL then RET leaves the whole state as a plain advance would, stack
included, whatever the depth below 16. -/
def Obligations.CallThenReturnComesBack : Prop :=
  ∀ (nnn : Addr) (s : State), s.depth < 16 →
    ∃ t u, exec (.call nnn) s = .next t ∧ exec .ret t = .next u ∧
      u.stack = s.stack ∧ Advanced s u ∧ KeepsRegsBut [] s u ∧ OnlyRegsAndPc s u

/-- R137: PC moves 4 when the registers are equal, else 2; always when x = y. -/
def Obligations.SkipWhenRegistersAreEqual : Prop :=
  ∀ (x y : RegNum) (s : State), ∃ t, exec (.seVxVy x y) s = .next t ∧
    t.pc.toNat = (s.pc.toNat + if s.readV x = s.readV y then 4 else 2) % 4096 ∧
    KeepsRegsBut [] s t ∧ OnlyRegsAndPc s t

/-- R135, R136, R138 with R134: PC moves 4 when the condition holds, else 2. The conditions are decision D26. -/
def Obligations.SkipsOnTheOtherRegisterConditions : Prop :=
  ∀ (x y : RegNum) (kk : Byte) (s : State),
    (∃ t, exec (.seVxKk x kk) s = .next t ∧
      t.pc.toNat = (s.pc.toNat + if s.readV x = kk then 4 else 2) % 4096 ∧
      KeepsRegsBut [] s t ∧ OnlyRegsAndPc s t) ∧
    (∃ t, exec (.sneVxKk x kk) s = .next t ∧
      t.pc.toNat = (s.pc.toNat + if s.readV x = kk then 2 else 4) % 4096 ∧
      KeepsRegsBut [] s t ∧ OnlyRegsAndPc s t) ∧
    (∃ t, exec (.sneVxVy x y) s = .next t ∧
      t.pc.toNat = (s.pc.toNat + if s.readV x = s.readV y then 2 else 4) % 4096 ∧
      KeepsRegsBut [] s t ∧ OnlyRegsAndPc s t)

/-! ## Address register and memory (43_memory_access.md) -/

/-- R150, R152: I takes nnn, and the address of the glyph of Vx's low nibble. Nothing else but the advance. -/
def Obligations.LoadAddressAndGlyphAddress : Prop :=
  ∀ (nnn : Addr) (x : RegNum) (s : State),
    (∃ t, exec (.ldINnn nnn) s = .next t ∧ t.i.toNat = nnn.toNat ∧
      KeepsRegsBut [] s t ∧ Advanced s t ∧ OnlyRegsAndPc s { t with i := s.i }) ∧
    (∃ t, exec (.ldFVx x) s = .next t ∧ t.i.toNat = 0x050 + 5 * ((s.readV x).toNat % 16) ∧
      KeepsRegsBut [] s t ∧ Advanced s t ∧ OnlyRegsAndPc s { t with i := s.i })

/-- R151: I + Vx modulo 4096. That no general register, VF included, is written is decision D8. -/
def Obligations.AddToAddressWrapsAt12Bits : Prop :=
  ∀ (x : RegNum) (s : State), ∃ t, exec (.addIVx x) s = .next t ∧
    t.i.toNat = (s.i.toNat + (s.readV x).toNat) % 4096 ∧
    KeepsRegsBut [] s t ∧ Advanced s t ∧ OnlyRegsAndPc s { t with i := s.i }

/-- R153, R60: when I .. I + 2 lies in the writable region, the three decimal digits of Vx stand at I, I + 1, I + 2,
every other byte is as it was, and I, the registers and the rest are unchanged; otherwise the fault is taken and no
byte is written. The lower bound WRITE_LO is decision D3, an unchanged I decision D9. -/
def Obligations.BcdStoresTheDecimalDigits : Prop :=
  ∀ (x : RegNum) (s : State),
    (s.params.writeLo ≤ s.i.toNat → s.i.toNat + 2 ≤ 0xFFF → ∃ t, exec (.ldBVx x) s = .next t ∧
      100 * (t.readMem s.i.toNat).toNat + 10 * (t.readMem (s.i.toNat + 1)).toNat +
        (t.readMem (s.i.toNat + 2)).toNat = (s.readV x).toNat ∧
      (t.readMem (s.i.toNat + 1)).toNat ≤ 9 ∧ (t.readMem (s.i.toNat + 2)).toNat ≤ 9 ∧
      (∀ a, a < s.i.toNat ∨ s.i.toNat + 2 < a → t.readMem a = s.readMem a) ∧
      KeepsRegsBut [] s t ∧ Advanced s t ∧ OnlyRegsAndPc s { t with mem := s.mem }) ∧
    (s.i.toNat < s.params.writeLo ∨ 0xFFF < s.i.toNat + 2 → ∃ t, exec (.ldBVx x) s = .next t ∧
      Faulted s t (.outOfRange s.i.toNat (s.i.toNat + 2) .write))

/-- R154, R60: when I .. I + x lies in the writable region, V0 .. Vx stand there in order, every other byte is as it
was, and the rest is unchanged; otherwise the fault is taken and no byte is written. WRITE_LO is decision D3, an
unchanged I decision D9. -/
def Obligations.StoreRegistersAllOrNothing : Prop :=
  ∀ (x : RegNum) (s : State),
    (s.params.writeLo ≤ s.i.toNat → s.i.toNat + x.val ≤ 0xFFF → ∃ t, exec (.ldMemVx x) s = .next t ∧
      (∀ k : RegNum, k ≤ x → t.readMem (s.i.toNat + k.val) = s.readV k) ∧
      (∀ a, a < s.i.toNat ∨ s.i.toNat + x.val < a → t.readMem a = s.readMem a) ∧
      KeepsRegsBut [] s t ∧ Advanced s t ∧ OnlyRegsAndPc s { t with mem := s.mem }) ∧
    (s.i.toNat < s.params.writeLo ∨ 0xFFF < s.i.toNat + x.val → ∃ t, exec (.ldMemVx x) s = .next t ∧
      Faulted s t (.outOfRange s.i.toNat (s.i.toNat + x.val) .write))

/-- R155, R59: when I .. I + x lies in memory, V0 .. Vx take its bytes, the other registers and the rest are unchanged;
otherwise the fault is taken and no register is written. An unchanged I is decision D9. -/
def Obligations.LoadRegistersAllOrNothing : Prop :=
  ∀ (x : RegNum) (s : State),
    (s.i.toNat + x.val ≤ 0xFFF → ∃ t, exec (.ldVxMem x) s = .next t ∧
      (∀ k : RegNum, t.readV k = if k ≤ x then s.readMem (s.i.toNat + k.val) else s.readV k) ∧
      Advanced s t ∧ OnlyRegsAndPc s t) ∧
    (0xFFF < s.i.toNat + x.val → ∃ t, exec (.ldVxMem x) s = .next t ∧
      Faulted s t (.outOfRange s.i.toNat (s.i.toNat + x.val) .read))

/-- LD [I],Vx then LD Vx,[I] with I unchanged between them (R154, R155): after a store, loading the same registers
gives back what was stored, over any registers in between. -/
def Obligations.LoadAfterStoreGivesTheRegistersBack : Prop :=
  ∀ (x : RegNum) (s : State) (v : Vector Byte 16),
    s.params.writeLo ≤ s.i.toNat → s.i.toNat + x.val ≤ 0xFFF →
    ∃ t u, exec (.ldMemVx x) s = .next t ∧ exec (.ldVxMem x) { t with v := v } = .next u ∧
      ∀ k : RegNum, u.readV k = if k ≤ x then s.readV k else v[k]

/-! ## Display (44_display.md) -/

/-- R170: every pixel off, the draw flag set, and the change list exactly the pixels that were on, in row-major order,
each with the new value false. The change list and the draw flag are decision D13. -/
def Obligations.ClearTurnsEveryPixelOff : Prop :=
  ∀ s : State, ∃ t, exec .cls s = .next t ∧ (∀ r c, t.pixel r c = false) ∧ t.drawFlag = true ∧
    (∀ e : PixelChange, e ∈ t.changeList ↔ s.pixel e.row e.col = true ∧ e.value = false) ∧
    t.changeList.Pairwise (fun e f => e.row < f.row ∨ (e.row = f.row ∧ e.col < f.col)) ∧
    KeepsRegsBut [] s t ∧ Advanced s t ∧
    OnlyRegsAndPc s { t with disp := s.disp, changeList := s.changeList }

/-- R171: a pixel changes exactly when a set bit of the sprite falls on it, the positions wrapping; VF is 1 exactly when
a set bit falls on a pixel that was on; the draw flag is set; the rest is unchanged. The range check on the sprite is
decision D4, the draw of no rows decision D5. -/
def Obligations.DrawTogglesExactlyTheSprite : Prop :=
  ∀ (x y : RegNum) (n : Count) (s : State), n.val = 0 ∨ s.i.toNat + n.val ≤ 0x1000 →
    ∃ t, exec (.drwVxVyN x y n) s = .next t ∧
      (∀ (r : Fin 32) (c : Fin 64), t.pixel r c ≠ s.pixel r c ↔
        ∃ k < n.val, ∃ j < 8, ((s.readV y).toNat + k) % 32 = r.val ∧ ((s.readV x).toNat + j) % 64 = c.val ∧
          (s.readMem (s.i.toNat + k)).getLsbD (7 - j) = true) ∧
      (t.readV VF = 1#8 ∨ t.readV VF = 0#8) ∧
      (t.readV VF = 1#8 ↔ ∃ (r : Fin 32) (c : Fin 64), s.pixel r c = true ∧ t.pixel r c = false) ∧
      t.drawFlag = true ∧ KeepsRegsBut [VF] s t ∧ Advanced s t ∧
      OnlyRegsAndPc s { t with disp := s.disp, changeList := s.changeList }

/-- R171 with R59 (decision D4): a sprite that reaches past 0xFFF is not drawn: the fault is taken. -/
def Obligations.DrawPastMemoryFaults : Prop :=
  ∀ (x y : RegNum) (n : Count) (s : State), n.val ≠ 0 → 0xFFF < s.i.toNat + n.val - 1 →
    ∃ t, exec (.drwVxVyN x y n) s = .next t ∧
      Faulted s t (.outOfRange s.i.toNat (s.i.toNat + n.val - 1) .read)

/-- R172, R173: the change list of a draw is one entry for each set bit of the sprite, rows first and then columns from
the left, each with the negation of the pixel's old value, whatever the list was before, and no pixel stands in it
twice. The entry's form is decision D21; R173 is the spec's own inference. -/
def Obligations.DrawListsEachChangedPixelOnce : Prop :=
  ∀ (x y : RegNum) (n : Count) (s : State), n.val = 0 ∨ s.i.toNat + n.val ≤ 0x1000 →
    ∃ t, exec (.drwVxVyN x y n) s = .next t ∧
      t.changeList = ((List.range n.val).flatMap fun k =>
        ((List.range 8).filter fun j => (s.readMem (s.i.toNat + k)).getLsbD (7 - j)).map fun j =>
          let r := Fin.ofNat 32 ((s.readV y).toNat + k)
          let c := Fin.ofNat 64 ((s.readV x).toNat + j)
          ⟨r, c, !s.pixel r c⟩) ∧
      t.changeList.Pairwise fun e f => e.row ≠ f.row ∨ e.col ≠ f.col

/-- R174, the spec's own inference, and the source's property E5: drawing the same sprite again at the same place gives
the display back, with the same pixels listed in the same order and every new value negated; and where the first draw
met no lit pixel, the second collides exactly when the first changed something. -/
def Obligations.DrawingTwiceRestoresTheDisplay : Prop :=
  ∀ (x y : RegNum) (n : Count) (s : State), x ≠ VF → y ≠ VF → n.val = 0 ∨ s.i.toNat + n.val ≤ 0x1000 →
    ∃ t u, exec (.drwVxVyN x y n) s = .next t ∧ exec (.drwVxVyN x y n) t = .next u ∧
      u.disp = s.disp ∧
      u.changeList = t.changeList.map (fun e => { e with value := !e.value }) ∧
      (t.readV VF = 0#8 → (u.readV VF = 1#8 ↔ t.changeList ≠ []))

/-! ## Keyboard and timers (45_input.md, 46_timers.md) -/

/-- R190, R191 with R134: the key tested is Vx modulo 16, its current state decides, and PC moves 4 or 2. The polarity is
decision D26, the use of the current state decision D27. -/
def Obligations.KeySkipsTestTheCurrentKeyState : Prop :=
  ∀ (x k : RegNum) (s : State), k.val = (s.readV x).toNat % 16 →
    (∃ t, exec (.skpVx x) s = .next t ∧
      t.pc.toNat = (s.pc.toNat + if s.keyDown k = true then 4 else 2) % 4096 ∧
      KeepsRegsBut [] s t ∧ OnlyRegsAndPc s t) ∧
    (∃ t, exec (.sknpVx x) s = .next t ∧
      t.pc.toNat = (s.pc.toNat + if s.keyDown k = true then 2 else 4) % 4096 ∧
      KeepsRegsBut [] s t ∧ OnlyRegsAndPc s t)

/-- R192: with a key whose release edge stands in the latch, the lowest such key's number goes into Vx and PC advances;
with none, PC stays (modulo 4096) and no register changes. Either way the latch and the rest are unchanged. What Vx
takes is decision D26, the lowest key and the unchanged latch decision D11. -/
def Obligations.KeyWaitEndsOnAReleaseEdge : Prop :=
  ∀ (x : RegNum) (s : State),
    (∀ k : RegNum, s.keyWasDown k = true → s.keyDown k = false →
      (∀ j : RegNum, j < k → ¬ (s.keyWasDown j = true ∧ s.keyDown j = false)) →
      ∃ t, exec (.ldVxK x) s = .next t ∧ (t.readV x).toNat = k.val ∧
        KeepsRegsBut [x] s t ∧ Advanced s t ∧ OnlyRegsAndPc s t) ∧
    ((∀ k : RegNum, ¬ (s.keyWasDown k = true ∧ s.keyDown k = false)) →
      ∃ t, exec (.ldVxK x) s = .next t ∧ t.pc.toNat = s.pc.toNat % 4096 ∧
        KeepsRegsBut [] s t ∧ OnlyRegsAndPc s t)

/-- R200, R201, R202: Vx takes DT; DT takes Vx; ST takes Vx. Nothing else but the advance. -/
def Obligations.TimerInstructionsMoveOneByte : Prop :=
  ∀ (x : RegNum) (s : State),
    (∃ t, exec (.ldVxDt x) s = .next t ∧ t.readV x = s.dt ∧
      KeepsRegsBut [x] s t ∧ Advanced s t ∧ OnlyRegsAndPc s t) ∧
    (∃ t, exec (.ldDtVx x) s = .next t ∧ t.dt = s.readV x ∧
      KeepsRegsBut [] s t ∧ Advanced s t ∧ OnlyRegsAndPc s { t with dt := s.dt }) ∧
    (∃ t, exec (.ldStVx x) s = .next t ∧ t.st = s.readV x ∧
      KeepsRegsBut [] s t ∧ Advanced s t ∧ OnlyRegsAndPc s { t with st := s.st })

/-! ## Encoding and the cycle (30_encoding.md) -/

/-- R80, R82, R83 on a few words: the source's example words and the vectors V1 to V10 of 95_test_vectors.md. The nibble
values of most rows are decision D28 (log 12). -/
def Obligations.ListedWordsDecodeAsTheSpecSays : Prop :=
  decodeWord 0x1202#16 = .ok (.jp 0x202#12) ∧ decodeWord 0x6005#16 = .ok (.ldVxKk 0 0x05#8) ∧
  decodeWord 0x5010#16 = .ok (.seVxVy 0 1) ∧ decodeWord 0xF029#16 = .ok (.ldFVx 0) ∧
  decodeWord 0xD123#16 = .ok (.drwVxVyN 1 2 3) ∧ decodeWord 0x01E0#16 = .ok .cls ∧
  decodeWord 0x0FEE#16 = .ok .ret ∧ decodeWord 0x8126#16 = .ok (.shrVx 1) ∧
  decodeWord 0xE29E#16 = .ok (.skpVx 2) ∧ decodeWord 0xF733#16 = .ok (.ldBVx 7) ∧
  decodeWord 0x8128#16 = .error .noRow8 ∧ decodeWord 0xE19F#16 = .error .noRowE ∧
  decodeWord 0xF108#16 = .error .noRowF

/-- Every operand of every instruction survives encoding: the encoded word of a well-formed instruction decodes to it
(R80, R83). -/
def Obligations.DecodeOfEncodeIsTheInstruction : Prop :=
  ∀ i : Instr, i.wellFormed = true → decodeWord (encode i) = .ok i

/-- R82 with R73, R80: a word decodes to an instruction exactly when the instruction is well-formed and the word differs
from its canonical encoding in ignored bits only. R82 is the spec's own inference; the nibbles are D28, the ignored
bits D32. -/
def Obligations.WordDecodesIffItIsTheCodeUpToIgnoredBits : Prop :=
  ∀ (w : Word) (i : Instr), decodeWord w = .ok i ↔ i.wellFormed = true ∧ w &&& i.usedBits = encode i

/-- R81, the spec's own inference, with R77–R80: the words that DECODE to no instruction are exactly those of sub-tables 8,
E and F with an unlisted key. With SYS_MODE fault R76 and R81 count the SYS words among those that select none; that they
decode to SYS in either mode, whose meaning then takes the same fault (R130, decision D12), is the model's choice, log 3. -/
def Obligations.WordsThatSelectNothing : Prop :=
  ∀ w : Word, (∀ i, decodeWord w ≠ .ok i) ↔
    (w.toNat / 0x1000 = 0x8 ∧ w.toNat % 0x10 ∈ [0x8, 0x9, 0xA, 0xB, 0xC, 0xD, 0xF]) ∨
    (w.toNat / 0x1000 = 0xE ∧ w.toNat % 0x100 ∉ [0x9E, 0xA1]) ∨
    (w.toNat / 0x1000 = 0xF ∧ w.toNat % 0x100 ∉ [0x07, 0x0A, 0x15, 0x18, 0x1E, 0x29, 0x33, 0x55, 0x65])

/-- R71: the six fields of a word, as the numbers its bit ranges hold. -/
def Obligations.DecoderFieldsAreTheBitRanges : Prop :=
  ∀ w : Word,
    (fieldOp w).toNat = w.toNat / 4096 ∧ (fieldX w).val = w.toNat / 256 % 16 ∧ (fieldY w).val = w.toNat / 16 % 16 ∧
    (fieldN w).val = w.toNat % 16 ∧ (fieldKk w).toNat = w.toNat % 256 ∧ (fieldNnn w).toNat = w.toNat % 4096

/-- R85, R55, R56: a RUNNING core whose two bytes at PC, the one at PC high, form a word that decodes to i runs i at that
state, whether PC is even or odd; i is well-formed. The model's step adds nothing around exec: the advance and the
clearing of the draw flag are part of each meaning. -/
def Obligations.StepRunsTheInstructionAtPc : Prop :=
  ∀ (s : State) (i : Instr), s.status = .running → s.pc.toNat ≤ 0xFFE →
    decodeWord (BitVec.ofNat 16 (256 * (s.readMem s.pc.toNat).toNat + (s.readMem (s.pc.toNat + 1)).toNat)) = .ok i →
    i.wellFormed = true ∧ step s = exec i s

/-- R61 (decision D1): a RUNNING core at the last byte of memory cannot fetch: FetchOutOfRange is taken, whatever the
byte there is. -/
def Obligations.FetchPastMemoryFaults : Prop :=
  ∀ s : State, s.status = .running → s.pc.toNat = 0xFFF →
    ∃ t, step s = .next t ∧ Faulted s t .fetchOutOfRange

/-- R74: a word that decodes to no instruction (a SYS word decodes to SYS in either mode, log 3) takes UnsupportedOpcode with that word as its info, and is never a no-op. What
a fault leaves is R214 (decision D14). -/
def Obligations.UnsupportedWordFaults : Prop :=
  ∀ s : State, s.status = .running → s.pc.toNat ≤ 0xFFE → (∀ i, decodeWord s.wordAtPc ≠ .ok i) →
    ∃ t, step s = .next t ∧ Faulted s t (.unsupportedOpcode s.wordAtPc)

/-! ## Faults (60_exceptions.md) -/

/-- R215 (decision D14): a FAULTED core takes no step: the record comes back and the state is unchanged; ticks, key events
and loads leave it FAULTED with the same record; reset alone makes it RUNNING. -/
def Obligations.FaultedCoreTakesNoStep : Prop :=
  ∀ (s : State) (r : FaultRecord), s.status = .faulted r →
    step s = .fault (.coreFaulted r) ∧ s.afterStep = s ∧
    (∀ op : HostOp, op ≠ .reset → (hostApply s op).status = .faulted r) ∧
    (hostApply s .reset).status = .running

/-- R214 (decision D14), R210: whenever a step of a RUNNING core, or one instruction run on it, leaves it FAULTED, the
record names the address fetched from, and everything but PC and the draw flag is as before the step. -/
def Obligations.FaultEntryLeavesTheRestUnchanged : Prop :=
  ∀ (s t : State) (r : FaultRecord), s.status = .running → t.status = .faulted r →
    step s = .next t ∨ (∃ i, exec i s = .next t) →
    r.faultPc = s.pc ∧ Faulted s t r.cause

/-- R216, the spec's own inference, with R210: the fault of an instruction is one of the kinds the table gives it, and a
fetch fault comes first: it is the step's fault whatever the byte at PC is. -/
def Obligations.EachInstructionRaisesItsOwnFaults : Prop :=
  ∀ (s : State), s.status = .running →
    (∀ (i : Instr) (t : State) (r : FaultRecord), exec i s = .next t → t.status = .faulted r →
      faultCode r.cause ∈ ownFaultCodes i) ∧
    (0xFFF < s.pc.toNat + 1 → ∃ t, step s = .next t ∧ t.status = .faulted ⟨.fetchOutOfRange, s.pc⟩)

/-- Every instruction of the table answers a next state in every state: no meaning stops or refuses, since every fault's
entry is described (R214). The model's own reading of a fault entry as a next state is log 9. -/
def Obligations.EveryInstructionAnswersANextState : Prop :=
  ∀ (i : Instr) (s : State), ∃ t, exec i s = .next t ∧
    (t.status = s.status ∨ ∃ c, t.status = .faulted ⟨c, s.pc⟩ ∧ faultCode c ∈ ownFaultCodes i)

/-! ## Whole-machine rules, over every instruction -/

/-- R23 (decision D9): I is written by LD I,nnn, ADD I,Vx and LD F,Vx, and by no other instruction. -/
def Obligations.OnlyThreeInstructionsWriteI : Prop :=
  ∀ (i : Instr) (s t : State), exec i s = .next t → t.i ≠ s.i →
    (∃ nnn, i = .ldINnn nnn) ∨ (∃ x, i = .addIVx x) ∨ (∃ x, i = .ldFVx x)

/-- R25: push only from CALL, of one 12-bit address and to a depth of at most 16, and pop only from RET, of one entry; no
other instruction writes the stack, nor reads it: with another stack it does the same. The stack is no part of memory: an
instruction that changes it leaves every byte as it was, and the stack it leaves is the same whatever memory holds. It is
empty at reset. -/
def Obligations.OnlyCallAndReturnTouchTheStack : Prop :=
  State.reset.stack = [] ∧
  ∀ (i : Instr) (s t : State), exec i s = .next t →
    (t.stack = s.stack ∨
      (∃ nnn ret, i = .call nnn ∧ t.stack = s.stack ++ [ret] ∧ ret.toNat ≤ 0xFFF ∧ t.depth ≤ 16) ∨
      (i = .ret ∧ ∃ top, s.stack = t.stack ++ [top])) ∧
    (t.stack ≠ s.stack → ∀ a, t.readMem a = s.readMem a) ∧
    (∀ (m : List Host.Cell) (u : State), exec i { s with mem := m } = .next u → u.stack = t.stack) ∧
    (∀ l : List Word, (∀ nnn, i ≠ .call nnn) → i ≠ .ret → exec i { s with stack := l } = .next { t with stack := l })

/-- R52: memory is mutated by the store-type handlers LD B,Vx and LD [I],Vx alone, and by them only in the bytes from I on
that they store; of the host's operations that are neither a step nor reset, loadProgram alone writes memory. -/
def Obligations.OnlyStoresAndLoadsOfProgramsWriteMemory : Prop :=
  (∀ (i : Instr) (s t : State) (a : Nat), exec i s = .next t →
    a < s.i.toNat ∨ s.i.toNat + bytesStored i ≤ a → t.readMem a = s.readMem a) ∧
  (∀ (s : State) (op : HostOp) (a : Nat), op ≠ .reset → op ≠ .step →
    (∀ bytes, op ≠ .loadProgram bytes) → (hostApply s op).readMem a = s.readMem a)

/-- R31, R35, R36 over every instruction that completes: the display and the change list are written by CLS and DRW
alone, and the draw flag reads true after them and false after every other. R35 and R36 rest on decisions D13, D21 and
D22. -/
def Obligations.OnlyClearAndDrawWriteTheDisplay : Prop :=
  ∀ (i : Instr) (s t : State), exec i s = .next t → t.status = s.status → s.status = .running →
    if i = .cls ∨ (∃ x y n, i = .drwVxVyN x y n) then t.drawFlag = true
    else t.drawFlag = false ∧ t.changeList = s.changeList ∧ ∀ r c, t.pixel r c = s.pixel r c

/-- R20, R21 (decisions D6, D7, D8): a general register changes only as a destination the instruction names, or as VF by
one of the six flag-setting instructions; and a VF that is no destination of such an instruction is then 0 or 1. -/
def Obligations.RegistersChangeOnlyAsDestinationOrFlag : Prop :=
  ∀ (i : Instr) (s t : State), exec i s = .next t →
    (∀ r : RegNum, t.readV r ≠ s.readV r → r ∈ destinations i ∨ (r = VF ∧ setsFlag i = true)) ∧
    (setsFlag i = true → VF ∉ destinations i → t.status = .running → t.readV VF = 0#8 ∨ t.readV VF = 1#8)

/-- R28, R29, R33, R34 and R5: DT is written by LD DT,Vx alone, ST by LD ST,Vx alone, last_rand by RND alone, and no
instruction writes the key latch (decision D11) or a launch parameter. -/
def Obligations.TimersLatchAndRandomByteHaveOneWriter : Prop :=
  ∀ (i : Instr) (s t : State), exec i s = .next t →
    (t.dt ≠ s.dt → ∃ x, i = .ldDtVx x) ∧ (t.st ≠ s.st → ∃ x, i = .ldStVx x) ∧
    (t.lastRand ≠ s.lastRand → ∃ x kk, i = .rndVxKk x kk) ∧
    (∀ k, t.keyDown k = s.keyDown k ∧ t.keyWasDown k = s.keyWasDown k) ∧ t.params = s.params

/-- R66, the spec's own inference, with R154 and R55: a store over the next instruction is what the next step runs: after
LD [I],V1 with I at the advanced PC, the next step executes the word V0:V1 forms. -/
def Obligations.StoredWordIsTheNextInstruction : Prop :=
  ∀ (s : State) (j : Instr), s.status = .running → s.pc.toNat + 3 ≤ 0xFFF → s.i.toNat = s.pc.toNat + 2 →
    s.params.writeLo ≤ s.i.toNat → s.wordAtPc = 0xF155#16 →
    decodeWord (s.readV 0 ++ s.readV 1) = .ok j →
    ∃ t, step s = .next t ∧ step t = exec j t

/-- R242 (decision D39): at a jump to itself a step leaves the state unchanged but for the draw flag being false. -/
def Obligations.SelfJumpIsAtRest : Prop :=
  ∀ s : State, s.endedWell = true → step s = .next { s with drawFlag := false } ∧
    ({ s with drawFlag := false } : State).endedWell = true

/-! ## Reset, the host's operations, invariants -/

/-- R24, R20, R23, R25, R28, R29, R31, R33, R35–R37, R45 at State.reset: the reset invariant E1 and the values of 10_state.md
section 1. The font bytes are the spec's default (D30, log 7); what memory holds elsewhere and last_rand are the model's
choices (logs 5, 6) and are not stated. -/
def Obligations.ResetStateIsTheSpecs : Prop :=
  (∀ r, State.reset.readV r = 0#8) ∧ State.reset.i = 0#16 ∧ State.reset.pc = 0x200#16 ∧ State.reset.stack = [] ∧
  State.reset.dt = 0#8 ∧ State.reset.st = 0#8 ∧ (∀ r c, State.reset.pixel r c = false) ∧
  (∀ k, State.reset.keyDown k = false ∧ State.reset.keyWasDown k = false) ∧ State.reset.changeList = [] ∧
  State.reset.drawFlag = false ∧ State.reset.status = .running ∧
  (List.range 5).map (fun j => State.reset.readMem (0x050 + j)) = [0xF0#8, 0x90#8, 0x90#8, 0x90#8, 0xF0#8] ∧
  (List.range 5).map (fun j => State.reset.readMem (0x09B + j)) = [0xF0#8, 0x80#8, 0xF0#8, 0x80#8, 0x80#8]

/-- R250 for every launch: the reset operation, in any status, leaves the reset state of the machine's own launch
parameters: FONT_DATA in 0x050–0x09F, INIT_MEM elsewhere, INIT_LAST_RAND, SP reading SP_EMPTY, and every other field as at
State.reset. The parameters are decisions D16, D17, D18, D30. -/
def Obligations.ResetRestoresTheLaunchState : Prop :=
  ∀ s : State, ∃ t, hostApply s .reset = t ∧
    (∀ (d : Fin 16) (j : Fin 5), t.readMem (0x050 + 5 * d.val + j.val) = s.params.fontData[d][j]) ∧
    (∀ a, a < 0x050 ∨ 0x09F < a → t.readMem a = Memory.read s.params.initMem a) ∧
    t.lastRand = s.params.initLastRand ∧ t.sp = s.params.spEmpty ∧ t.params = s.params ∧
    t.v = State.reset.v ∧ t.i = State.reset.i ∧ t.pc = State.reset.pc ∧ t.stack = [] ∧ t.dt = 0#8 ∧ t.st = 0#8 ∧
    t.disp = State.reset.disp ∧ t.keyCur = State.reset.keyCur ∧ t.keyPrev = State.reset.keyPrev ∧
    t.changeList = [] ∧ t.drawFlag = false ∧ t.status = .running

/-- R225, in every status (decision D33): a tick takes one from each timer that is not 0, and changes nothing else. -/
def Obligations.TickCountsBothTimersDown : Prop :=
  ∀ s : State, ∃ t, hostApply s .tickTimers = t ∧ t.dt.toNat = s.dt.toNat - 1 ∧ t.st.toNat = s.st.toNat - 1 ∧
    s = { t with dt := s.dt, st := s.st }

/-- R235 (decision D23): for a key there is, the previous state takes the current one and the current one the new one,
when they differ, and no other key and nothing else changes. -/
def Obligations.SetKeyRecordsTheEdge : Prop :=
  ∀ (s : State) (k : RegNum) (p : Bool), ∃ t, s.setKey k.val p = .ok t ∧ hostApply s (.setKey k.val p) = t ∧
    t.keyDown k = p ∧ t.keyWasDown k = (if s.keyDown k = p then s.keyWasDown k else s.keyDown k) ∧
    (∀ j : RegNum, j ≠ k → t.keyDown j = s.keyDown j ∧ t.keyWasDown j = s.keyWasDown j) ∧
    s = { t with keyCur := s.keyCur, keyPrev := s.keyPrev }

/-- R236: setKey with an index above 15 gives a range error back and changes nothing, and so does an accessor of a
register or a key. -/
def Obligations.IndexAbove15IsARangeError : Prop :=
  ∀ (s : State) (k : Nat) (p : Bool), 15 < k →
    hostReply s (.setKey k p) = .error .rangeError ∧ hostApply s (.setKey k p) = s ∧
    s.peekV k = .error .rangeError ∧ s.peekKey k = .error .rangeError

/-- R232: a program of at most 3584 bytes stands at 0x200 on, every other byte and everything else is as before. That a
longer one is refused with no change is decision D25. -/
def Obligations.LoadProgramCopiesOrRefuses : Prop :=
  ∀ (s : State) (bytes : List Byte),
    (bytes.length ≤ 3584 → ∃ t, s.loadProgram bytes = .ok t ∧
      (∀ (k : Nat) (h : k < bytes.length), t.readMem (0x200 + k) = bytes[k]) ∧
      (∀ a, a < 0x200 ∨ 0x200 + bytes.length ≤ a → t.readMem a = s.readMem a) ∧ s = { t with mem := s.mem }) ∧
    (3584 < bytes.length → s.loadProgram bytes = .error .tooLong ∧ hostApply s (.loadProgram bytes) = s)

/-- R237 (decision D24): the accessors give the register, the key's two states and the memory bytes asked for, and a range
error for a memory range that reaches past 0xFFF. -/
def Obligations.AccessorsReadWhatTheyName : Prop :=
  ∀ s : State,
    (∀ x : RegNum, s.peekV x.val = .ok (s.readV x) ∧ s.peekKey x.val = .ok (s.keyDown x, s.keyWasDown x)) ∧
    (∀ lo hi, lo ≤ hi → hi ≤ 0xFFF → ∃ bs, s.peekMem lo hi = .ok bs ∧ bs.length = hi - lo + 1 ∧
      ∀ (k : Nat) (h : k < bs.length), bs[k] = s.readMem (lo + k)) ∧
    (∀ lo hi, 0xFFF < hi → s.peekMem lo hi = .error .rangeError)

/-- R27 (decision D18): SP is SP_EMPTY plus the depth modulo 256: reset leaves it at SP_EMPTY, a CALL that completes adds
one, a RET that completes takes one off, and with the sentinel −1 a legal state reads it as depth − 1. -/
def Obligations.StackPointerMirrorsTheDepth : Prop :=
  (∀ s : State, (hostApply s .reset).sp = s.params.spEmpty) ∧
  (∀ (nnn : Addr) (s : State), s.depth < 16 → ∃ t, exec (.call nnn) s = .next t ∧ t.sp = s.sp + 1#8) ∧
  (∀ s : State, s.stack ≠ [] → ∃ t, exec .ret s = .next t ∧ t.sp = s.sp - 1#8) ∧
  (∀ s : State, s.params.spEmpty = 0xFF#8 → s.depth ≤ 16 → s.spSigned = (s.depth : Int) - 1)

/-- Legal is an invariant: from EVERY legal state, reached or not, a step leads to a legal state: I and PC stay 12-bit
values (R23, R24), the depth stays within 16 and the entries 12-bit values (R25, R26), memory stays canonical. -/
def Obligations.StepKeepsTheStateLegal : Prop :=
  ∀ s t : State, s.Legal → step s = .next t → t.Legal

/-- The state at reset is legal, for State.reset and for every launch with a canonical INIT_MEM. -/
def Obligations.ResetStatesAreLegal : Prop :=
  State.reset.Legal ∧ ∀ (p : Params) (n : Nat), Memory.wf p.initMem = true → (State.resetWith p n).Legal

/-- R238, R252: Legal holds under every interleaving of reset, loadProgram, step, tickTimers and setKey, so of every
reachable state (decision D20). -/
def Obligations.EveryReachableStateIsLegal : Prop :=
  ∀ s : State, Reachable s → s.Legal

/-- R26: in every reachable state the depth (a natural number) is at most 16, CALL at depth 16 takes StackOverflow, RET
at depth 0 takes StackUnderflow, and neither changes the stack. What is reachable rests on decision D20, what a fault
leaves on decision D14 and log 9. -/
def Obligations.StackDepthStaysInBounds : Prop :=
  ∀ s : State, Reachable s →
    s.depth ≤ 16 ∧
    (∀ nnn, s.depth = 16 → ∃ t, exec (.call nnn) s = .next t ∧
      t.status = .faulted ⟨.stackOverflow nnn, s.pc⟩ ∧ t.stack = s.stack) ∧
    (s.depth = 0 → ∃ t, exec .ret s = .next t ∧ t.status = .faulted ⟨.stackUnderflow, s.pc⟩ ∧ t.stack = s.stack)
end

