-- ==== Sys2Proof/Laws/Decode.lean ====
section
/-! SUPPORT. Laws/Decode.lean: the fields of the words the encoder builds, and the fields of a word as numbers. -/

namespace Sys2Proof

@[simp] theorem regOfBits_bitsOfReg (x : RegNum) : regOfBits (bitsOfReg x) = x := by
  apply Fin.ext
  simp only [regOfBits, bitsOfReg, BitVec.toNat_ofNat]; omega

@[simp] theorem bitsOfReg_regOfBits (b : BitVec 4) : bitsOfReg (regOfBits b) = b := by
  apply BitVec.eq_of_toNat_eq
  simp only [regOfBits, bitsOfReg, BitVec.toNat_ofNat]; omega

theorem wordNnn_toNat (op : BitVec 4) (nnn : Addr) : (wordNnn op nnn).toNat = op.toNat * 4096 + nnn.toNat := by
  have := nnn.isLt
  simp only [wordNnn, BitVec.toNat_append, Nat.shiftLeft_eq]
  rw [← Nat.shiftLeft_eq, ← Nat.shiftLeft_add_eq_or_of_lt (by simpa using this), Nat.shiftLeft_eq]

theorem wordXKk_toNat (op : BitVec 4) (x : RegNum) (kk : Byte) :
    (wordXKk op x kk).toNat = op.toNat * 4096 + x.val * 256 + kk.toNat := by
  have := kk.isLt
  have hx : (bitsOfReg x).toNat = x.val := by simp only [bitsOfReg, BitVec.toNat_ofNat]; omega
  simp only [wordXKk, BitVec.toNat_append]
  rw [← Nat.shiftLeft_add_eq_or_of_lt (by simpa using this), ← Nat.shiftLeft_add_eq_or_of_lt (by rw [hx]; omega), hx]
  simp only [Nat.shiftLeft_eq]; omega

theorem wordXYN_toNat (op : BitVec 4) (x y : RegNum) (n : BitVec 4) :
    (wordXYN op x y n).toNat = op.toNat * 4096 + x.val * 256 + y.val * 16 + n.toNat := by
  have := n.isLt
  have hx : (bitsOfReg x).toNat = x.val := by simp only [bitsOfReg, BitVec.toNat_ofNat]; omega
  have hy : (bitsOfReg y).toNat = y.val := by simp only [bitsOfReg, BitVec.toNat_ofNat]; omega
  have hyn : (bitsOfReg y ++ n).toNat = y.val * 16 + n.toNat := by
    rw [BitVec.toNat_append, ← Nat.shiftLeft_add_eq_or_of_lt (by simpa using this), hy]; simp only [Nat.shiftLeft_eq]
  have hop : (op ++ bitsOfReg x).toNat = op.toNat * 16 + x.val := by
    rw [BitVec.toNat_append, ← Nat.shiftLeft_add_eq_or_of_lt (by rw [hx]; omega), hx]; simp only [Nat.shiftLeft_eq]
  rw [wordXYN, BitVec.toNat_append, ← Nat.shiftLeft_add_eq_or_of_lt (by rw [hyn]; omega), hyn, hop]
  simp only [Nat.shiftLeft_eq]; omega

/-! The fields of a word as numbers (R71). -/

theorem fieldOp_toNat (w : Word) : (fieldOp w).toNat = w.toNat / 4096 := by
  have := w.isLt
  simp only [fieldOp, BitVec.extractLsb'_toNat, Nat.shiftRight_eq_div_pow]; omega

theorem fieldX_val (w : Word) : (fieldX w).val = w.toNat / 256 % 16 := by
  simp only [fieldX, regOfBits, BitVec.extractLsb'_toNat, Nat.shiftRight_eq_div_pow]

theorem fieldY_val (w : Word) : (fieldY w).val = w.toNat / 16 % 16 := by
  simp only [fieldY, regOfBits, BitVec.extractLsb'_toNat, Nat.shiftRight_eq_div_pow]

theorem fieldN_val (w : Word) : (fieldN w).val = w.toNat % 16 := by
  simp only [fieldN, regOfBits, BitVec.extractLsb'_toNat, Nat.shiftRight_eq_div_pow]; omega

theorem fieldKk_toNat (w : Word) : (fieldKk w).toNat = w.toNat % 256 := by
  simp only [fieldKk, BitVec.extractLsb'_toNat, Nat.shiftRight_eq_div_pow]; omega

theorem fieldNnn_toNat (w : Word) : (fieldNnn w).toNat = w.toNat % 4096 := by
  simp only [fieldNnn, BitVec.extractLsb'_toNat, Nat.shiftRight_eq_div_pow]; omega

/-! The fields of the words the encoder builds. -/

@[simp] theorem fieldOp_wordNnn (op : BitVec 4) (nnn : Addr) : fieldOp (wordNnn op nnn) = op := by
  apply BitVec.eq_of_toNat_eq; rw [fieldOp_toNat, wordNnn_toNat]; have := nnn.isLt; omega

@[simp] theorem fieldNnn_wordNnn (op : BitVec 4) (nnn : Addr) : fieldNnn (wordNnn op nnn) = nnn := by
  apply BitVec.eq_of_toNat_eq; rw [fieldNnn_toNat, wordNnn_toNat]; have := nnn.isLt; omega

@[simp] theorem fieldKk_wordNnn (op : BitVec 4) (nnn : Addr) : fieldKk (wordNnn op nnn) = nnn.setWidth 8 := by
  apply BitVec.eq_of_toNat_eq
  rw [fieldKk_toNat, wordNnn_toNat, BitVec.toNat_setWidth]; omega

@[simp] theorem fieldOp_wordXKk (op : BitVec 4) (x : RegNum) (kk : Byte) : fieldOp (wordXKk op x kk) = op := by
  apply BitVec.eq_of_toNat_eq; rw [fieldOp_toNat, wordXKk_toNat]; have := kk.isLt; have := x.isLt; omega

@[simp] theorem fieldX_wordXKk (op : BitVec 4) (x : RegNum) (kk : Byte) : fieldX (wordXKk op x kk) = x := by
  apply Fin.ext; rw [fieldX_val, wordXKk_toNat]; have := kk.isLt; have := x.isLt; omega

@[simp] theorem fieldKk_wordXKk (op : BitVec 4) (x : RegNum) (kk : Byte) : fieldKk (wordXKk op x kk) = kk := by
  apply BitVec.eq_of_toNat_eq; rw [fieldKk_toNat, wordXKk_toNat]; have := kk.isLt; omega

@[simp] theorem fieldOp_wordXYN (op : BitVec 4) (x y : RegNum) (n : BitVec 4) : fieldOp (wordXYN op x y n) = op := by
  apply BitVec.eq_of_toNat_eq; rw [fieldOp_toNat, wordXYN_toNat]; have := n.isLt; have := x.isLt; omega

@[simp] theorem fieldX_wordXYN (op : BitVec 4) (x y : RegNum) (n : BitVec 4) : fieldX (wordXYN op x y n) = x := by
  apply Fin.ext; rw [fieldX_val, wordXYN_toNat]; have := n.isLt; have := y.isLt; omega

@[simp] theorem fieldY_wordXYN (op : BitVec 4) (x y : RegNum) (n : BitVec 4) : fieldY (wordXYN op x y n) = y := by
  apply Fin.ext; rw [fieldY_val, wordXYN_toNat]; have := n.isLt; omega

@[simp] theorem fieldN_wordXYN (op : BitVec 4) (x y : RegNum) (n : BitVec 4) :
    fieldN (wordXYN op x y n) = regOfBits n := by
  apply Fin.ext; rw [fieldN_val, wordXYN_toNat]; simp only [regOfBits]; have := n.isLt; omega

/-! The decoder takes two bytes. -/

/-- Decoding from bytes is decoding the word they form, with the rest handed back (R70). -/
theorem decodeBytes_ok {hi lo : Byte} {rest : List Byte} {i : Instr} (h : decodeWord (wordOfBytes hi lo) = .ok i) :
    decodeBytes (hi :: lo :: rest) = .ok (i, rest) := by
  simp [decodeBytes, h]

theorem wordOfBytes_toNat (hi lo : Byte) : (wordOfBytes hi lo).toNat = 256 * hi.toNat + lo.toNat := by
  have := lo.isLt
  rw [wordOfBytes, BitVec.toNat_append, ← Nat.shiftLeft_add_eq_or_of_lt (by simpa using this), Nat.shiftLeft_eq]; omega

end Sys2Proof
end

