-- ==== Sys2Proof/Machine/Assembly.lean ====
section
/-! DEFINITION. Machine/Assembly.lean: the mnemonic and operand spellings of 30_encoding.md R83; nothing the core
executes. -/

namespace Sys2Proof.Machine

/-- The mnemonics of R83. There are no pseudo-instructions (R84). -/
inductive Mnemonic where
  | sys | cls | ret | jp | call | se | sne | ld | add | or | and | xor | sub | shr | subn | shl | rnd | drw | skp | sknp
  deriving DecidableEq, Repr

/-- Every mnemonic. -/
def Mnemonic.all : List Mnemonic :=
  [.sys, .cls, .ret, .jp, .call, .se, .sne, .ld, .add, .or, .and, .xor, .sub, .shr, .subn, .shl, .rnd, .drw, .skp, .sknp]

/-- How a mnemonic is written. -/
def Mnemonic.text : Mnemonic → List Char
  | .sys => ['S', 'Y', 'S']
  | .cls => ['C', 'L', 'S']
  | .ret => ['R', 'E', 'T']
  | .jp => ['J', 'P']
  | .call => ['C', 'A', 'L', 'L']
  | .se => ['S', 'E']
  | .sne => ['S', 'N', 'E']
  | .ld => ['L', 'D']
  | .add => ['A', 'D', 'D']
  | .or => ['O', 'R']
  | .and => ['A', 'N', 'D']
  | .xor => ['X', 'O', 'R']
  | .sub => ['S', 'U', 'B']
  | .shr => ['S', 'H', 'R']
  | .subn => ['S', 'U', 'B', 'N']
  | .shl => ['S', 'H', 'L']
  | .rnd => ['R', 'N', 'D']
  | .drw => ['D', 'R', 'W']
  | .skp => ['S', 'K', 'P']
  | .sknp => ['S', 'K', 'N', 'P']

/-- An operand token (R83): a register, `I`, `[I]`, `DT`, `ST`, `K`, `F`, `B`, or a number. -/
inductive Token where
  | reg (x : RegNum)
  | i
  | memI
  | dt
  | st
  | k
  | f
  | b
  | num (n : Nat)
  deriving DecidableEq, Repr

/-- An instruction as written: its mnemonic and its operands, destination first (R83). -/
structure Spelling where
  mnemonic : Mnemonic
  operands : List Token
  deriving DecidableEq, Repr

/-- The spelling of an instruction (R83). -/
def spell : Instr → Spelling
  | .sys nnn => ⟨.sys, [.num nnn.toNat]⟩
  | .cls => ⟨.cls, []⟩
  | .ret => ⟨.ret, []⟩
  | .jp nnn => ⟨.jp, [.num nnn.toNat]⟩
  | .call nnn => ⟨.call, [.num nnn.toNat]⟩
  | .seVxKk x kk => ⟨.se, [.reg x, .num kk.toNat]⟩
  | .sneVxKk x kk => ⟨.sne, [.reg x, .num kk.toNat]⟩
  | .seVxVy x y => ⟨.se, [.reg x, .reg y]⟩
  | .ldVxKk x kk => ⟨.ld, [.reg x, .num kk.toNat]⟩
  | .addVxKk x kk => ⟨.add, [.reg x, .num kk.toNat]⟩
  | .ldVxVy x y => ⟨.ld, [.reg x, .reg y]⟩
  | .orVxVy x y => ⟨.or, [.reg x, .reg y]⟩
  | .andVxVy x y => ⟨.and, [.reg x, .reg y]⟩
  | .xorVxVy x y => ⟨.xor, [.reg x, .reg y]⟩
  | .addVxVy x y => ⟨.add, [.reg x, .reg y]⟩
  | .subVxVy x y => ⟨.sub, [.reg x, .reg y]⟩
  | .shrVx x => ⟨.shr, [.reg x]⟩
  | .subnVxVy x y => ⟨.subn, [.reg x, .reg y]⟩
  | .shlVx x => ⟨.shl, [.reg x]⟩
  | .sneVxVy x y => ⟨.sne, [.reg x, .reg y]⟩
  | .ldINnn nnn => ⟨.ld, [.i, .num nnn.toNat]⟩
  | .jpV0Nnn nnn => ⟨.jp, [.reg 0, .num nnn.toNat]⟩
  | .rndVxKk x kk => ⟨.rnd, [.reg x, .num kk.toNat]⟩
  | .drwVxVyN x y n => ⟨.drw, [.reg x, .reg y, .num n.val]⟩
  | .skpVx x => ⟨.skp, [.reg x]⟩
  | .sknpVx x => ⟨.sknp, [.reg x]⟩
  | .ldVxDt x => ⟨.ld, [.reg x, .dt]⟩
  | .ldVxK x => ⟨.ld, [.reg x, .k]⟩
  | .ldDtVx x => ⟨.ld, [.dt, .reg x]⟩
  | .ldStVx x => ⟨.ld, [.st, .reg x]⟩
  | .addIVx x => ⟨.add, [.i, .reg x]⟩
  | .ldFVx x => ⟨.ld, [.f, .reg x]⟩
  | .ldBVx x => ⟨.ld, [.b, .reg x]⟩
  | .ldMemVx x => ⟨.ld, [.memI, .reg x]⟩
  | .ldVxMem x => ⟨.ld, [.reg x, .memI]⟩

/-- A number that fits its field, or nothing (R83). -/
def fitBits (w n : Nat) : Option (BitVec w) := if n < 2 ^ w then some (BitVec.ofNat w n) else none

/-- The instruction a spelling names, or nothing (R83). `SHR Vx,Vy` and `SHL Vx,Vy` are accepted and name the instruction
of Vx: their second operand is no part of it (R82), only of the word (`Spelling.ignoredBits`). DESIGN CHOICE (log 22): a
`SYS` number whose word is CLS or RET spells nothing (R80 row 1). -/
def Spelling.instr? (s : Spelling) : Option Instr :=
  match s.mnemonic, s.operands with
  | .sys, [.num n] => ((fitBits 12 n).map .sys).filter Instr.wellFormed
  | .cls, [] => some .cls
  | .ret, [] => some .ret
  | .jp, [.num n] => (fitBits 12 n).map .jp
  | .jp, [.reg x, .num n] => if x = 0 then (fitBits 12 n).map .jpV0Nnn else none
  | .call, [.num n] => (fitBits 12 n).map .call
  | .se, [.reg x, .num n] => (fitBits 8 n).map (.seVxKk x)
  | .se, [.reg x, .reg y] => some (.seVxVy x y)
  | .sne, [.reg x, .num n] => (fitBits 8 n).map (.sneVxKk x)
  | .sne, [.reg x, .reg y] => some (.sneVxVy x y)
  | .ld, [.reg x, .num n] => (fitBits 8 n).map (.ldVxKk x)
  | .ld, [.reg x, .reg y] => some (.ldVxVy x y)
  | .ld, [.i, .num n] => (fitBits 12 n).map .ldINnn
  | .ld, [.reg x, .dt] => some (.ldVxDt x)
  | .ld, [.reg x, .k] => some (.ldVxK x)
  | .ld, [.dt, .reg x] => some (.ldDtVx x)
  | .ld, [.st, .reg x] => some (.ldStVx x)
  | .ld, [.f, .reg x] => some (.ldFVx x)
  | .ld, [.b, .reg x] => some (.ldBVx x)
  | .ld, [.memI, .reg x] => some (.ldMemVx x)
  | .ld, [.reg x, .memI] => some (.ldVxMem x)
  | .add, [.reg x, .num n] => (fitBits 8 n).map (.addVxKk x)
  | .add, [.reg x, .reg y] => some (.addVxVy x y)
  | .add, [.i, .reg x] => some (.addIVx x)
  | .or, [.reg x, .reg y] => some (.orVxVy x y)
  | .and, [.reg x, .reg y] => some (.andVxVy x y)
  | .xor, [.reg x, .reg y] => some (.xorVxVy x y)
  | .sub, [.reg x, .reg y] => some (.subVxVy x y)
  | .shr, [.reg x] => some (.shrVx x)
  | .shr, [.reg x, .reg _] => some (.shrVx x)
  | .subn, [.reg x, .reg y] => some (.subnVxVy x y)
  | .shl, [.reg x] => some (.shlVx x)
  | .shl, [.reg x, .reg _] => some (.shlVx x)
  | .rnd, [.reg x, .num n] => (fitBits 8 n).map (.rndVxKk x)
  | .drw, [.reg x, .reg y, .num n] => (fitBits 4 n).map fun b => .drwVxVyN x y (regOfBits b)
  | .skp, [.reg x] => some (.skpVx x)
  | .sknp, [.reg x] => some (.sknpVx x)
  | _, _ => none

/-- The value of a digit; letters in either case. -/
def digitValue (c : Char) : Option Nat :=
  let n := c.toNat
  if 48 ≤ n ∧ n ≤ 57 then some (n - 48)
  else if 65 ≤ n ∧ n ≤ 70 then some (n - 55)
  else if 97 ≤ n ∧ n ≤ 102 then some (n - 87)
  else none

/-- Digits of a base read onto a value, most significant first. -/
def readDigits (base acc : Nat) : List Char → Option Nat
  | [] => some acc
  | c :: cs =>
    match digitValue c with
    | some d => if d < base then readDigits base (acc * base + d) cs else none
    | none => none

/-- A number in decimal, or in hex after `0x` (R83). -/
def readNumber : List Char → Option Nat
  | [] => none
  | '0' :: 'x' :: d :: ds => readDigits 16 0 (d :: ds)
  | cs => readDigits 10 0 cs

/-- An operand token from its characters (R83). -/
def readToken : List Char → Option Token
  | ['I'] => some .i
  | ['[', 'I', ']'] => some .memI
  | ['D', 'T'] => some .dt
  | ['S', 'T'] => some .st
  | ['K'] => some .k
  | ['F'] => some .f
  | ['B'] => some .b
  | ['V', d] => (digitValue d).map fun n => .reg (Fin.ofNat 16 n)
  | cs => (readNumber cs).map .num

/-- The parts between commas. -/
def splitAtCommas : List Char → List (List Char)
  | [] => [[]]
  | c :: cs =>
    if c = ',' then [] :: splitAtCommas cs
    else
      match splitAtCommas cs with
      | [] => [[c]]
      | t :: ts => (c :: t) :: ts

/-- The mnemonic, and the operands after the first space. -/
def cutAtSpace : List Char → List Char × List (List Char)
  | [] => ([], [])
  | c :: cs => if c = ' ' then ([], splitAtCommas cs) else (c :: (cutAtSpace cs).1, (cutAtSpace cs).2)

/-- A line of text as a spelling: a mnemonic, a space, comma-separated operands (R83). -/
def readLine (text : List Char) : Option Spelling :=
  match Mnemonic.all.find? (fun m => m.text = (cutAtSpace text).1), (cutAtSpace text).2.mapM readToken with
  | some m, some ts => some ⟨m, ts⟩
  | _, _ => none

/-- What a spelling puts into the ignored nibbles: the y operand of `SHR Vx,Vy` and `SHL Vx,Vy`, "encoded and ignored",
and 0 everywhere else (R83). DEDUCED, that the parenthesis on these two spellings goes before the same rule's zero in
every ignored nibble (log 24). -/
def Spelling.ignoredBits (s : Spelling) : Word :=
  match s.mnemonic, s.operands with
  | .shr, [.reg _, .reg y] => wordXYN 0x0#4 0 y 0x0#4
  | .shl, [.reg _, .reg y] => wordXYN 0x0#4 0 y 0x0#4
  | _, _ => 0x0000#16

/-- The word of a spelling, or nothing when it names no instruction (R83). -/
def Spelling.word? (s : Spelling) : Option Word := s.instr?.map fun i => encode i ||| s.ignoredBits

/-- The assembler of R83: the word a line spells, or nothing. -/
def assemble (text : List Char) : Option Word := (readLine text).bind Spelling.word?

end Sys2Proof.Machine
end

