-- ==== Sys2Proof/Laws/Assembly.lean ====
section
/-! SUPPORT. Laws/Assembly.lean: the spelling of a well-formed instruction names that instruction, and has its canonical word
(R83). -/

namespace Sys2Proof.Machine

@[simp] theorem fitBits_toNat (w : Nat) (b : BitVec w) : fitBits w b.toNat = some b := by
  simp [fitBits, b.isLt]

theorem fitBits_count (n : Count) : (fitBits 4 n.val).map regOfBits = some n := by
  have h : n.val < 2 ^ 4 := n.isLt
  simp only [fitBits, h, if_true, Option.map_some]
  exact congrArg some (regOfBits_bitsOfReg n)

theorem instr?_spell (i : Instr) (h : i.wellFormed = true) : (spell i).instr? = some i := by
  cases i <;> simp [spell, Spelling.instr?]
  case sys => exact h
  case drwVxVyN x y n =>
    obtain ⟨b, hb, hn⟩ := Option.map_eq_some_iff.mp (fitBits_count n)
    exact ⟨b, hb, hn⟩

@[simp] theorem ignoredBits_spell (i : Instr) : (spell i).ignoredBits = 0x0000#16 := by cases i <;> rfl

theorem word?_spell (i : Instr) (h : i.wellFormed = true) : (spell i).word? = some (encode i) := by
  simp [Spelling.word?, instr?_spell i h]

theorem word?_shr (x y : RegNum) :
    (Spelling.mk .shr [.reg x, .reg y]).word? = some (wordXYN 0x8#4 x y 0x6#4) := by
  revert x y; decide

theorem word?_shl (x y : RegNum) :
    (Spelling.mk .shl [.reg x, .reg y]).word? = some (wordXYN 0x8#4 x y 0xE#4) := by
  revert x y; decide

end Sys2Proof.Machine
end

