-- ==== Sys2Proof/Laws/Memory.lean ====
section
/-! SUPPORT. Laws/Memory.lean: read after write, and that every memory operation keeps the canonical form. -/

namespace Sys2Proof.Machine

@[simp] theorem Memory.read_nil (a : Nat) : Memory.read [] a = Memory.unlisted a := rfl

theorem Memory.read_erase_self (m : List Host.Cell) (a : Nat) :
    Memory.read (Memory.erase m a) a = Memory.unlisted a := by
  induction m with
  | nil => rfl
  | cons c m ih =>
    obtain ⟨k, b⟩ := c
    by_cases h : k = a
    · simpa [Memory.erase, h] using ih
    · simpa [Memory.erase, h, Memory.read] using ih

theorem Memory.read_erase_ne (m : List Host.Cell) {a a' : Nat} (h : a' ≠ a) :
    Memory.read (Memory.erase m a) a' = Memory.read m a' := by
  induction m with
  | nil => rfl
  | cons c m ih =>
    obtain ⟨k, b⟩ := c
    by_cases hk : k = a
    · have : ¬ a = a' := fun e => h e.symm
      simpa [Memory.erase, hk, Memory.read, this] using ih
    · by_cases hk' : k = a'
      · simp [Memory.erase, Memory.read, hk', h]
      · simpa [Memory.erase, hk, Memory.read, hk'] using ih

theorem Memory.read_insertCell_self (m : List Host.Cell) (a : Nat) (b : Byte) (h : ∀ c ∈ m, c.1 ≠ a) :
    Memory.read (Memory.insertCell a b m) a = b := by
  induction m with
  | nil => simp [Memory.insertCell, Memory.read]
  | cons c m ih =>
    obtain ⟨k, d⟩ := c
    have hk : k ≠ a := h (k, d) (by simp)
    by_cases hlt : a < k
    · simp [Memory.insertCell, Memory.read, hlt]
    · simpa [Memory.insertCell, Memory.read, hlt, hk] using ih fun c hc => h c (by simp [hc])

theorem Memory.read_insertCell_ne (m : List Host.Cell) {a a' : Nat} (h : a' ≠ a) (b : Byte) :
    Memory.read (Memory.insertCell a b m) a' = Memory.read m a' := by
  have h' : ¬ a = a' := fun e => h e.symm
  induction m with
  | nil => simp [Memory.insertCell, Memory.read, h']
  | cons c m ih =>
    obtain ⟨k, d⟩ := c
    by_cases hlt : a < k
    · simp [Memory.insertCell, Memory.read, hlt, h']
    · simp [Memory.insertCell, Memory.read, hlt, ih]

theorem Memory.ne_of_mem_erase {m : List Host.Cell} {a : Nat} {c : Host.Cell} (h : c ∈ Memory.erase m a) : c.1 ≠ a := by
  simpa using (List.mem_filter.mp h).2

/-- A byte written is the byte read (R63). -/
@[simp] theorem Memory.read_write_self (m : List Host.Cell) (a : Nat) (b : Byte) :
    Memory.read (Memory.write m a b) a = b := by
  unfold Memory.write
  split
  · next h => rw [h, Memory.read_erase_self]
  · exact Memory.read_insertCell_self _ _ _ fun c hc => Memory.ne_of_mem_erase hc

/-- A write leaves every other byte as it was (R63). -/
theorem Memory.read_write_ne (m : List Host.Cell) {a a' : Nat} (h : a' ≠ a) (b : Byte) :
    Memory.read (Memory.write m a b) a' = Memory.read m a' := by
  unfold Memory.write
  split
  · exact Memory.read_erase_ne m h
  · rw [Memory.read_insertCell_ne _ h, Memory.read_erase_ne _ h]

/-- Bytes outside the written range are as before. -/
theorem Memory.read_writeBytes_outside (m : List Host.Cell) (a : Nat) (bs : List Byte) {a' : Nat}
    (h : a' < a ∨ a + bs.length ≤ a') : Memory.read (Memory.writeBytes m a bs) a' = Memory.read m a' := by
  induction bs generalizing m a with
  | nil => rfl
  | cons b bs ih =>
    simp only [List.length_cons] at h
    rw [Memory.writeBytes, ih _ _ (by omega), Memory.read_write_ne _ (by omega)]

/-- The `k`-th byte of the written range is the `k`-th byte given. -/
theorem Memory.read_writeBytes_inside (m : List Host.Cell) (a : Nat) (bs : List Byte) (k : Nat) (h : k < bs.length) :
    Memory.read (Memory.writeBytes m a bs) (a + k) = bs[k] := by
  induction bs generalizing m a k with
  | nil => simp at h
  | cons b bs ih =>
    cases k with
    | zero =>
      rw [Memory.writeBytes, Memory.read_writeBytes_outside _ _ _ (by omega)]
      simp
    | succ k =>
      have e : a + (k + 1) = a + 1 + k := by omega
      rw [Memory.writeBytes, e, ih _ _ k (by simpa using h)]
      simp

/-! The canonical form. -/

theorem Memory.wfFrom_le {lo lo' : Nat} (h : lo' ≤ lo) {m : List Host.Cell} (hm : Memory.wfFrom lo m = true) :
    Memory.wfFrom lo' m = true := by
  cases m with
  | nil => rfl
  | cons c m =>
    obtain ⟨k, b⟩ := c
    simp only [Memory.wfFrom, Bool.and_eq_true, decide_eq_true_eq] at hm ⊢
    exact ⟨⟨⟨by omega, hm.1.1.2⟩, hm.1.2⟩, hm.2⟩

theorem Memory.wfFrom_erase (a lo : Nat) (m : List Host.Cell) (hm : Memory.wfFrom lo m = true) :
    Memory.wfFrom lo (Memory.erase m a) = true := by
  induction m generalizing lo with
  | nil => rfl
  | cons c m ih =>
    obtain ⟨k, b⟩ := c
    simp only [Memory.wfFrom, Bool.and_eq_true, decide_eq_true_eq] at hm
    by_cases h : k = a
    · have e : Memory.erase ((k, b) :: m) a = Memory.erase m a := by simp [Memory.erase, h]
      rw [e]
      exact Memory.wfFrom_le (by omega) (ih _ hm.2)
    · have e : Memory.erase ((k, b) :: m) a = (k, b) :: Memory.erase m a := by simp [Memory.erase, h]
      rw [e]
      simp only [Memory.wfFrom, Bool.and_eq_true, decide_eq_true_eq]
      exact ⟨hm.1, ih _ hm.2⟩

theorem Memory.wfFrom_insertCell {a lo : Nat} {b : Byte} (ha : a < Config.memSize) (hb : b ≠ Memory.unlisted a)
    (hlo : lo ≤ a) (m : List Host.Cell) (hn : ∀ c ∈ m, c.1 ≠ a) (hm : Memory.wfFrom lo m = true) :
    Memory.wfFrom lo (Memory.insertCell a b m) = true := by
  induction m generalizing lo with
  | nil => simp [Memory.insertCell, Memory.wfFrom, ha, hb, hlo]
  | cons c m ih =>
    obtain ⟨k, d⟩ := c
    have hk : k ≠ a := hn (k, d) (by simp)
    simp only [Memory.wfFrom, Bool.and_eq_true, decide_eq_true_eq] at hm
    by_cases hlt : a < k
    · simp only [Memory.insertCell, if_pos hlt, Memory.wfFrom, Bool.and_eq_true, decide_eq_true_eq]
      exact ⟨⟨⟨hlo, ha⟩, by simpa using hb⟩, ⟨⟨by omega, hm.1.1.2⟩, hm.1.2⟩, hm.2⟩
    · simp only [Memory.insertCell, if_neg hlt, Memory.wfFrom, Bool.and_eq_true, decide_eq_true_eq]
      exact ⟨hm.1, ih (by omega) (fun c hc => hn c (by simp [hc])) hm.2⟩

/-- A write inside the address space keeps the canonical form. -/
theorem Memory.wf_write {m : List Host.Cell} (hm : Memory.wf m = true) {a : Nat} (ha : a < Config.memSize) (b : Byte) :
    Memory.wf (Memory.write m a b) = true := by
  unfold Memory.write
  split
  · exact Memory.wfFrom_erase a 0 m hm
  · next hb =>
    exact Memory.wfFrom_insertCell ha hb (Nat.zero_le a) _ (fun c hc => Memory.ne_of_mem_erase hc)
      (Memory.wfFrom_erase a 0 m hm)

/-- Writing bytes that all lie inside the address space keeps the canonical form. -/
theorem Memory.wf_writeBytes {m : List Host.Cell} (hm : Memory.wf m = true) (a : Nat) (bs : List Byte)
    (h : a + bs.length ≤ Config.memSize) : Memory.wf (Memory.writeBytes m a bs) = true := by
  induction bs generalizing m a with
  | nil => exact hm
  | cons b bs ih =>
    simp only [List.length_cons] at h
    exact ih (Memory.wf_write hm (by omega) b) (a + 1) (by omega)

/-- Memory at `State.reset` is canonical: nothing is listed. -/
theorem Memory.wf_reset : Memory.wf State.reset.mem = true := rfl

/-- Two canonical memories that read alike from an address on are the same list: equal memories are equal data. -/
theorem Memory.eq_of_read_eq_from (lo : Nat) (m m' : List Host.Cell) (hm : Memory.wfFrom lo m = true)
    (hm' : Memory.wfFrom lo m' = true) (h : ∀ a, lo ≤ a → Memory.read m a = Memory.read m' a) : m = m' := by
  have unlistedBelow : ∀ (m : List Host.Cell) (lo a : Nat), Memory.wfFrom lo m = true → a < lo →
      Memory.read m a = Memory.unlisted a := by
    intro m
    induction m with
    | nil => intros; rfl
    | cons c m ih =>
      intro lo a hm ha
      obtain ⟨k, b⟩ := c
      simp only [Memory.wfFrom, Bool.and_eq_true, decide_eq_true_eq] at hm
      rw [Memory.read, if_neg (by omega)]
      exact ih (k + 1) a hm.2 (by omega)
  induction m generalizing lo m' with
  | nil =>
    cases m' with
    | nil => rfl
    | cons c m' =>
      obtain ⟨k, b⟩ := c
      simp only [Memory.wfFrom, Bool.and_eq_true, decide_eq_true_eq] at hm'
      have := h k hm'.1.1.1
      simp only [Memory.read, if_pos] at this
      simp [← this] at hm'
  | cons c m ih =>
    obtain ⟨k, b⟩ := c
    simp only [Memory.wfFrom, Bool.and_eq_true, decide_eq_true_eq, bne_iff_ne, ne_eq] at hm
    cases m' with
    | nil =>
      have := h k hm.1.1.1
      simp only [Memory.read, if_pos] at this
      exact absurd this hm.1.2
    | cons c' m' =>
      obtain ⟨k', b'⟩ := c'
      simp only [Memory.wfFrom, Bool.and_eq_true, decide_eq_true_eq, bne_iff_ne, ne_eq] at hm'
      have hkk : k = k' := by
        rcases Nat.lt_trichotomy k k' with hlt | heq | hgt
        · have := h k hm.1.1.1
          rw [Memory.read, if_pos rfl, Memory.read, if_neg (by omega), unlistedBelow m' _ k hm'.2 (by omega)] at this
          exact absurd this hm.1.2
        · exact heq
        · have := h k' hm'.1.1.1
          rw [Memory.read, if_neg (by omega), Memory.read, if_pos rfl, unlistedBelow m _ k' hm.2 (by omega)] at this
          exact absurd this.symm hm'.1.2
      subst hkk
      have hb := h k hm.1.1.1
      rw [Memory.read, if_pos rfl, Memory.read, if_pos rfl] at hb
      subst hb
      congr 1
      refine ih (k + 1) m' hm.2 hm'.2 fun a ha => ?_
      have := h a (by omega)
      rwa [Memory.read, if_neg (by omega), Memory.read, if_neg (by omega)] at this

end Sys2Proof.Machine
end

