-- ==== Sys2Proof/Laws/State.lean ====
section
/-! SUPPORT. Laws/State.lean: what every update of the state does to every field and every accessor, once. -/

namespace Sys2Proof.Machine

section

variable (s : State)

/-! `State.setV` -/

@[simp] theorem State.setV_v (x : RegNum) (b : Byte) : (s.setV x b).v = s.v.set x b := rfl
@[simp] theorem State.setV_i (x : RegNum) (b : Byte) : (s.setV x b).i = s.i := rfl
@[simp] theorem State.setV_pc (x : RegNum) (b : Byte) : (s.setV x b).pc = s.pc := rfl
@[simp] theorem State.setV_stack (x : RegNum) (b : Byte) : (s.setV x b).stack = s.stack := rfl
@[simp] theorem State.setV_dt (x : RegNum) (b : Byte) : (s.setV x b).dt = s.dt := rfl
@[simp] theorem State.setV_st (x : RegNum) (b : Byte) : (s.setV x b).st = s.st := rfl
@[simp] theorem State.setV_mem (x : RegNum) (b : Byte) : (s.setV x b).mem = s.mem := rfl
@[simp] theorem State.setV_disp (x : RegNum) (b : Byte) : (s.setV x b).disp = s.disp := rfl
@[simp] theorem State.setV_keyCur (x : RegNum) (b : Byte) : (s.setV x b).keyCur = s.keyCur := rfl
@[simp] theorem State.setV_keyPrev (x : RegNum) (b : Byte) : (s.setV x b).keyPrev = s.keyPrev := rfl
@[simp] theorem State.setV_lastRand (x : RegNum) (b : Byte) : (s.setV x b).lastRand = s.lastRand := rfl
@[simp] theorem State.setV_changeList (x : RegNum) (b : Byte) : (s.setV x b).changeList = s.changeList := rfl
@[simp] theorem State.setV_drawFlag (x : RegNum) (b : Byte) : (s.setV x b).drawFlag = s.drawFlag := rfl
@[simp] theorem State.setV_status (x : RegNum) (b : Byte) : (s.setV x b).status = s.status := rfl
@[simp] theorem State.setV_params (x : RegNum) (b : Byte) : (s.setV x b).params = s.params := rfl
@[simp] theorem State.setV_freeCount (x : RegNum) (b : Byte) : (s.setV x b).freeCount = s.freeCount := rfl
@[simp] theorem State.setV_readMem (x : RegNum) (b : Byte) (a : Nat) : (s.setV x b).readMem a = s.readMem a := rfl
@[simp] theorem State.setV_pixel (x : RegNum) (b : Byte) (r : Fin 32) (c : Fin 64) : (s.setV x b).pixel r c = s.pixel r c := rfl
@[simp] theorem State.setV_keyDown (x : RegNum) (b : Byte) (k : RegNum) : (s.setV x b).keyDown k = s.keyDown k := rfl
@[simp] theorem State.setV_keyWasDown (x : RegNum) (b : Byte) (k : RegNum) : (s.setV x b).keyWasDown k = s.keyWasDown k := rfl
@[simp] theorem State.setV_depth (x : RegNum) (b : Byte) : (s.setV x b).depth = s.depth := rfl


/-! `State.setAllV` -/

@[simp] theorem State.setAllV_v (w : Vector Byte 16) : (s.setAllV w).v = w := rfl
@[simp] theorem State.setAllV_i (w : Vector Byte 16) : (s.setAllV w).i = s.i := rfl
@[simp] theorem State.setAllV_pc (w : Vector Byte 16) : (s.setAllV w).pc = s.pc := rfl
@[simp] theorem State.setAllV_stack (w : Vector Byte 16) : (s.setAllV w).stack = s.stack := rfl
@[simp] theorem State.setAllV_dt (w : Vector Byte 16) : (s.setAllV w).dt = s.dt := rfl
@[simp] theorem State.setAllV_st (w : Vector Byte 16) : (s.setAllV w).st = s.st := rfl
@[simp] theorem State.setAllV_mem (w : Vector Byte 16) : (s.setAllV w).mem = s.mem := rfl
@[simp] theorem State.setAllV_disp (w : Vector Byte 16) : (s.setAllV w).disp = s.disp := rfl
@[simp] theorem State.setAllV_keyCur (w : Vector Byte 16) : (s.setAllV w).keyCur = s.keyCur := rfl
@[simp] theorem State.setAllV_keyPrev (w : Vector Byte 16) : (s.setAllV w).keyPrev = s.keyPrev := rfl
@[simp] theorem State.setAllV_lastRand (w : Vector Byte 16) : (s.setAllV w).lastRand = s.lastRand := rfl
@[simp] theorem State.setAllV_changeList (w : Vector Byte 16) : (s.setAllV w).changeList = s.changeList := rfl
@[simp] theorem State.setAllV_drawFlag (w : Vector Byte 16) : (s.setAllV w).drawFlag = s.drawFlag := rfl
@[simp] theorem State.setAllV_status (w : Vector Byte 16) : (s.setAllV w).status = s.status := rfl
@[simp] theorem State.setAllV_params (w : Vector Byte 16) : (s.setAllV w).params = s.params := rfl
@[simp] theorem State.setAllV_freeCount (w : Vector Byte 16) : (s.setAllV w).freeCount = s.freeCount := rfl
@[simp] theorem State.setAllV_readMem (w : Vector Byte 16) (a : Nat) : (s.setAllV w).readMem a = s.readMem a := rfl
@[simp] theorem State.setAllV_pixel (w : Vector Byte 16) (r : Fin 32) (c : Fin 64) : (s.setAllV w).pixel r c = s.pixel r c := rfl
@[simp] theorem State.setAllV_keyDown (w : Vector Byte 16) (k : RegNum) : (s.setAllV w).keyDown k = s.keyDown k := rfl
@[simp] theorem State.setAllV_keyWasDown (w : Vector Byte 16) (k : RegNum) : (s.setAllV w).keyWasDown k = s.keyWasDown k := rfl
@[simp] theorem State.setAllV_depth (w : Vector Byte 16) : (s.setAllV w).depth = s.depth := rfl


/-! `State.setI` -/

@[simp] theorem State.setI_v (w : Word) : (s.setI w).v = s.v := rfl
@[simp] theorem State.setI_i (w : Word) : (s.setI w).i = mask12 w := rfl
@[simp] theorem State.setI_pc (w : Word) : (s.setI w).pc = s.pc := rfl
@[simp] theorem State.setI_stack (w : Word) : (s.setI w).stack = s.stack := rfl
@[simp] theorem State.setI_dt (w : Word) : (s.setI w).dt = s.dt := rfl
@[simp] theorem State.setI_st (w : Word) : (s.setI w).st = s.st := rfl
@[simp] theorem State.setI_mem (w : Word) : (s.setI w).mem = s.mem := rfl
@[simp] theorem State.setI_disp (w : Word) : (s.setI w).disp = s.disp := rfl
@[simp] theorem State.setI_keyCur (w : Word) : (s.setI w).keyCur = s.keyCur := rfl
@[simp] theorem State.setI_keyPrev (w : Word) : (s.setI w).keyPrev = s.keyPrev := rfl
@[simp] theorem State.setI_lastRand (w : Word) : (s.setI w).lastRand = s.lastRand := rfl
@[simp] theorem State.setI_changeList (w : Word) : (s.setI w).changeList = s.changeList := rfl
@[simp] theorem State.setI_drawFlag (w : Word) : (s.setI w).drawFlag = s.drawFlag := rfl
@[simp] theorem State.setI_status (w : Word) : (s.setI w).status = s.status := rfl
@[simp] theorem State.setI_params (w : Word) : (s.setI w).params = s.params := rfl
@[simp] theorem State.setI_freeCount (w : Word) : (s.setI w).freeCount = s.freeCount := rfl
@[simp] theorem State.setI_readV (w : Word) (r : RegNum) : (s.setI w).readV r = s.readV r := rfl
@[simp] theorem State.setI_readMem (w : Word) (a : Nat) : (s.setI w).readMem a = s.readMem a := rfl
@[simp] theorem State.setI_pixel (w : Word) (r : Fin 32) (c : Fin 64) : (s.setI w).pixel r c = s.pixel r c := rfl
@[simp] theorem State.setI_keyDown (w : Word) (k : RegNum) : (s.setI w).keyDown k = s.keyDown k := rfl
@[simp] theorem State.setI_keyWasDown (w : Word) (k : RegNum) : (s.setI w).keyWasDown k = s.keyWasDown k := rfl
@[simp] theorem State.setI_depth (w : Word) : (s.setI w).depth = s.depth := rfl


/-! `State.setPc` -/

@[simp] theorem State.setPc_v (w : Word) : (s.setPc w).v = s.v := rfl
@[simp] theorem State.setPc_i (w : Word) : (s.setPc w).i = s.i := rfl
@[simp] theorem State.setPc_pc (w : Word) : (s.setPc w).pc = mask12 w := rfl
@[simp] theorem State.setPc_stack (w : Word) : (s.setPc w).stack = s.stack := rfl
@[simp] theorem State.setPc_dt (w : Word) : (s.setPc w).dt = s.dt := rfl
@[simp] theorem State.setPc_st (w : Word) : (s.setPc w).st = s.st := rfl
@[simp] theorem State.setPc_mem (w : Word) : (s.setPc w).mem = s.mem := rfl
@[simp] theorem State.setPc_disp (w : Word) : (s.setPc w).disp = s.disp := rfl
@[simp] theorem State.setPc_keyCur (w : Word) : (s.setPc w).keyCur = s.keyCur := rfl
@[simp] theorem State.setPc_keyPrev (w : Word) : (s.setPc w).keyPrev = s.keyPrev := rfl
@[simp] theorem State.setPc_lastRand (w : Word) : (s.setPc w).lastRand = s.lastRand := rfl
@[simp] theorem State.setPc_changeList (w : Word) : (s.setPc w).changeList = s.changeList := rfl
@[simp] theorem State.setPc_drawFlag (w : Word) : (s.setPc w).drawFlag = s.drawFlag := rfl
@[simp] theorem State.setPc_status (w : Word) : (s.setPc w).status = s.status := rfl
@[simp] theorem State.setPc_params (w : Word) : (s.setPc w).params = s.params := rfl
@[simp] theorem State.setPc_freeCount (w : Word) : (s.setPc w).freeCount = s.freeCount := rfl
@[simp] theorem State.setPc_readV (w : Word) (r : RegNum) : (s.setPc w).readV r = s.readV r := rfl
@[simp] theorem State.setPc_readMem (w : Word) (a : Nat) : (s.setPc w).readMem a = s.readMem a := rfl
@[simp] theorem State.setPc_pixel (w : Word) (r : Fin 32) (c : Fin 64) : (s.setPc w).pixel r c = s.pixel r c := rfl
@[simp] theorem State.setPc_keyDown (w : Word) (k : RegNum) : (s.setPc w).keyDown k = s.keyDown k := rfl
@[simp] theorem State.setPc_keyWasDown (w : Word) (k : RegNum) : (s.setPc w).keyWasDown k = s.keyWasDown k := rfl
@[simp] theorem State.setPc_depth (w : Word) : (s.setPc w).depth = s.depth := rfl


/-! `State.setStack` -/

@[simp] theorem State.setStack_v (l : List Word) : (s.setStack l).v = s.v := rfl
@[simp] theorem State.setStack_i (l : List Word) : (s.setStack l).i = s.i := rfl
@[simp] theorem State.setStack_pc (l : List Word) : (s.setStack l).pc = s.pc := rfl
@[simp] theorem State.setStack_stack (l : List Word) : (s.setStack l).stack = l := rfl
@[simp] theorem State.setStack_dt (l : List Word) : (s.setStack l).dt = s.dt := rfl
@[simp] theorem State.setStack_st (l : List Word) : (s.setStack l).st = s.st := rfl
@[simp] theorem State.setStack_mem (l : List Word) : (s.setStack l).mem = s.mem := rfl
@[simp] theorem State.setStack_disp (l : List Word) : (s.setStack l).disp = s.disp := rfl
@[simp] theorem State.setStack_keyCur (l : List Word) : (s.setStack l).keyCur = s.keyCur := rfl
@[simp] theorem State.setStack_keyPrev (l : List Word) : (s.setStack l).keyPrev = s.keyPrev := rfl
@[simp] theorem State.setStack_lastRand (l : List Word) : (s.setStack l).lastRand = s.lastRand := rfl
@[simp] theorem State.setStack_changeList (l : List Word) : (s.setStack l).changeList = s.changeList := rfl
@[simp] theorem State.setStack_drawFlag (l : List Word) : (s.setStack l).drawFlag = s.drawFlag := rfl
@[simp] theorem State.setStack_status (l : List Word) : (s.setStack l).status = s.status := rfl
@[simp] theorem State.setStack_params (l : List Word) : (s.setStack l).params = s.params := rfl
@[simp] theorem State.setStack_freeCount (l : List Word) : (s.setStack l).freeCount = s.freeCount := rfl
@[simp] theorem State.setStack_readV (l : List Word) (r : RegNum) : (s.setStack l).readV r = s.readV r := rfl
@[simp] theorem State.setStack_readMem (l : List Word) (a : Nat) : (s.setStack l).readMem a = s.readMem a := rfl
@[simp] theorem State.setStack_pixel (l : List Word) (r : Fin 32) (c : Fin 64) : (s.setStack l).pixel r c = s.pixel r c := rfl
@[simp] theorem State.setStack_keyDown (l : List Word) (k : RegNum) : (s.setStack l).keyDown k = s.keyDown k := rfl
@[simp] theorem State.setStack_keyWasDown (l : List Word) (k : RegNum) : (s.setStack l).keyWasDown k = s.keyWasDown k := rfl


/-! `State.push` -/

@[simp] theorem State.push_v (w : Word) : (s.push w).v = s.v := rfl
@[simp] theorem State.push_i (w : Word) : (s.push w).i = s.i := rfl
@[simp] theorem State.push_pc (w : Word) : (s.push w).pc = s.pc := rfl
@[simp] theorem State.push_stack (w : Word) : (s.push w).stack = s.stack ++ [w] := rfl
@[simp] theorem State.push_dt (w : Word) : (s.push w).dt = s.dt := rfl
@[simp] theorem State.push_st (w : Word) : (s.push w).st = s.st := rfl
@[simp] theorem State.push_mem (w : Word) : (s.push w).mem = s.mem := rfl
@[simp] theorem State.push_disp (w : Word) : (s.push w).disp = s.disp := rfl
@[simp] theorem State.push_keyCur (w : Word) : (s.push w).keyCur = s.keyCur := rfl
@[simp] theorem State.push_keyPrev (w : Word) : (s.push w).keyPrev = s.keyPrev := rfl
@[simp] theorem State.push_lastRand (w : Word) : (s.push w).lastRand = s.lastRand := rfl
@[simp] theorem State.push_changeList (w : Word) : (s.push w).changeList = s.changeList := rfl
@[simp] theorem State.push_drawFlag (w : Word) : (s.push w).drawFlag = s.drawFlag := rfl
@[simp] theorem State.push_status (w : Word) : (s.push w).status = s.status := rfl
@[simp] theorem State.push_params (w : Word) : (s.push w).params = s.params := rfl
@[simp] theorem State.push_freeCount (w : Word) : (s.push w).freeCount = s.freeCount := rfl
@[simp] theorem State.push_readV (w : Word) (r : RegNum) : (s.push w).readV r = s.readV r := rfl
@[simp] theorem State.push_readMem (w : Word) (a : Nat) : (s.push w).readMem a = s.readMem a := rfl
@[simp] theorem State.push_pixel (w : Word) (r : Fin 32) (c : Fin 64) : (s.push w).pixel r c = s.pixel r c := rfl
@[simp] theorem State.push_keyDown (w : Word) (k : RegNum) : (s.push w).keyDown k = s.keyDown k := rfl
@[simp] theorem State.push_keyWasDown (w : Word) (k : RegNum) : (s.push w).keyWasDown k = s.keyWasDown k := rfl


/-! `State.setDt` -/

@[simp] theorem State.setDt_v (b : Byte) : (s.setDt b).v = s.v := rfl
@[simp] theorem State.setDt_i (b : Byte) : (s.setDt b).i = s.i := rfl
@[simp] theorem State.setDt_pc (b : Byte) : (s.setDt b).pc = s.pc := rfl
@[simp] theorem State.setDt_stack (b : Byte) : (s.setDt b).stack = s.stack := rfl
@[simp] theorem State.setDt_dt (b : Byte) : (s.setDt b).dt = b := rfl
@[simp] theorem State.setDt_st (b : Byte) : (s.setDt b).st = s.st := rfl
@[simp] theorem State.setDt_mem (b : Byte) : (s.setDt b).mem = s.mem := rfl
@[simp] theorem State.setDt_disp (b : Byte) : (s.setDt b).disp = s.disp := rfl
@[simp] theorem State.setDt_keyCur (b : Byte) : (s.setDt b).keyCur = s.keyCur := rfl
@[simp] theorem State.setDt_keyPrev (b : Byte) : (s.setDt b).keyPrev = s.keyPrev := rfl
@[simp] theorem State.setDt_lastRand (b : Byte) : (s.setDt b).lastRand = s.lastRand := rfl
@[simp] theorem State.setDt_changeList (b : Byte) : (s.setDt b).changeList = s.changeList := rfl
@[simp] theorem State.setDt_drawFlag (b : Byte) : (s.setDt b).drawFlag = s.drawFlag := rfl
@[simp] theorem State.setDt_status (b : Byte) : (s.setDt b).status = s.status := rfl
@[simp] theorem State.setDt_params (b : Byte) : (s.setDt b).params = s.params := rfl
@[simp] theorem State.setDt_freeCount (b : Byte) : (s.setDt b).freeCount = s.freeCount := rfl
@[simp] theorem State.setDt_readV (b : Byte) (r : RegNum) : (s.setDt b).readV r = s.readV r := rfl
@[simp] theorem State.setDt_readMem (b : Byte) (a : Nat) : (s.setDt b).readMem a = s.readMem a := rfl
@[simp] theorem State.setDt_pixel (b : Byte) (r : Fin 32) (c : Fin 64) : (s.setDt b).pixel r c = s.pixel r c := rfl
@[simp] theorem State.setDt_keyDown (b : Byte) (k : RegNum) : (s.setDt b).keyDown k = s.keyDown k := rfl
@[simp] theorem State.setDt_keyWasDown (b : Byte) (k : RegNum) : (s.setDt b).keyWasDown k = s.keyWasDown k := rfl
@[simp] theorem State.setDt_depth (b : Byte) : (s.setDt b).depth = s.depth := rfl


/-! `State.setSt` -/

@[simp] theorem State.setSt_v (b : Byte) : (s.setSt b).v = s.v := rfl
@[simp] theorem State.setSt_i (b : Byte) : (s.setSt b).i = s.i := rfl
@[simp] theorem State.setSt_pc (b : Byte) : (s.setSt b).pc = s.pc := rfl
@[simp] theorem State.setSt_stack (b : Byte) : (s.setSt b).stack = s.stack := rfl
@[simp] theorem State.setSt_dt (b : Byte) : (s.setSt b).dt = s.dt := rfl
@[simp] theorem State.setSt_st (b : Byte) : (s.setSt b).st = b := rfl
@[simp] theorem State.setSt_mem (b : Byte) : (s.setSt b).mem = s.mem := rfl
@[simp] theorem State.setSt_disp (b : Byte) : (s.setSt b).disp = s.disp := rfl
@[simp] theorem State.setSt_keyCur (b : Byte) : (s.setSt b).keyCur = s.keyCur := rfl
@[simp] theorem State.setSt_keyPrev (b : Byte) : (s.setSt b).keyPrev = s.keyPrev := rfl
@[simp] theorem State.setSt_lastRand (b : Byte) : (s.setSt b).lastRand = s.lastRand := rfl
@[simp] theorem State.setSt_changeList (b : Byte) : (s.setSt b).changeList = s.changeList := rfl
@[simp] theorem State.setSt_drawFlag (b : Byte) : (s.setSt b).drawFlag = s.drawFlag := rfl
@[simp] theorem State.setSt_status (b : Byte) : (s.setSt b).status = s.status := rfl
@[simp] theorem State.setSt_params (b : Byte) : (s.setSt b).params = s.params := rfl
@[simp] theorem State.setSt_freeCount (b : Byte) : (s.setSt b).freeCount = s.freeCount := rfl
@[simp] theorem State.setSt_readV (b : Byte) (r : RegNum) : (s.setSt b).readV r = s.readV r := rfl
@[simp] theorem State.setSt_readMem (b : Byte) (a : Nat) : (s.setSt b).readMem a = s.readMem a := rfl
@[simp] theorem State.setSt_pixel (b : Byte) (r : Fin 32) (c : Fin 64) : (s.setSt b).pixel r c = s.pixel r c := rfl
@[simp] theorem State.setSt_keyDown (b : Byte) (k : RegNum) : (s.setSt b).keyDown k = s.keyDown k := rfl
@[simp] theorem State.setSt_keyWasDown (b : Byte) (k : RegNum) : (s.setSt b).keyWasDown k = s.keyWasDown k := rfl
@[simp] theorem State.setSt_depth (b : Byte) : (s.setSt b).depth = s.depth := rfl


/-! `State.setMem` -/

@[simp] theorem State.setMem_v (m : List Host.Cell) : (s.setMem m).v = s.v := rfl
@[simp] theorem State.setMem_i (m : List Host.Cell) : (s.setMem m).i = s.i := rfl
@[simp] theorem State.setMem_pc (m : List Host.Cell) : (s.setMem m).pc = s.pc := rfl
@[simp] theorem State.setMem_stack (m : List Host.Cell) : (s.setMem m).stack = s.stack := rfl
@[simp] theorem State.setMem_dt (m : List Host.Cell) : (s.setMem m).dt = s.dt := rfl
@[simp] theorem State.setMem_st (m : List Host.Cell) : (s.setMem m).st = s.st := rfl
@[simp] theorem State.setMem_mem (m : List Host.Cell) : (s.setMem m).mem = m := rfl
@[simp] theorem State.setMem_disp (m : List Host.Cell) : (s.setMem m).disp = s.disp := rfl
@[simp] theorem State.setMem_keyCur (m : List Host.Cell) : (s.setMem m).keyCur = s.keyCur := rfl
@[simp] theorem State.setMem_keyPrev (m : List Host.Cell) : (s.setMem m).keyPrev = s.keyPrev := rfl
@[simp] theorem State.setMem_lastRand (m : List Host.Cell) : (s.setMem m).lastRand = s.lastRand := rfl
@[simp] theorem State.setMem_changeList (m : List Host.Cell) : (s.setMem m).changeList = s.changeList := rfl
@[simp] theorem State.setMem_drawFlag (m : List Host.Cell) : (s.setMem m).drawFlag = s.drawFlag := rfl
@[simp] theorem State.setMem_status (m : List Host.Cell) : (s.setMem m).status = s.status := rfl
@[simp] theorem State.setMem_params (m : List Host.Cell) : (s.setMem m).params = s.params := rfl
@[simp] theorem State.setMem_freeCount (m : List Host.Cell) : (s.setMem m).freeCount = s.freeCount := rfl
@[simp] theorem State.setMem_readV (m : List Host.Cell) (r : RegNum) : (s.setMem m).readV r = s.readV r := rfl
@[simp] theorem State.setMem_pixel (m : List Host.Cell) (r : Fin 32) (c : Fin 64) : (s.setMem m).pixel r c = s.pixel r c := rfl
@[simp] theorem State.setMem_keyDown (m : List Host.Cell) (k : RegNum) : (s.setMem m).keyDown k = s.keyDown k := rfl
@[simp] theorem State.setMem_keyWasDown (m : List Host.Cell) (k : RegNum) : (s.setMem m).keyWasDown k = s.keyWasDown k := rfl
@[simp] theorem State.setMem_depth (m : List Host.Cell) : (s.setMem m).depth = s.depth := rfl


/-! `State.storeBytes` -/

@[simp] theorem State.storeBytes_v (a₀ : Nat) (bs : List Byte) : (s.storeBytes a₀ bs).v = s.v := rfl
@[simp] theorem State.storeBytes_i (a₀ : Nat) (bs : List Byte) : (s.storeBytes a₀ bs).i = s.i := rfl
@[simp] theorem State.storeBytes_pc (a₀ : Nat) (bs : List Byte) : (s.storeBytes a₀ bs).pc = s.pc := rfl
@[simp] theorem State.storeBytes_stack (a₀ : Nat) (bs : List Byte) : (s.storeBytes a₀ bs).stack = s.stack := rfl
@[simp] theorem State.storeBytes_dt (a₀ : Nat) (bs : List Byte) : (s.storeBytes a₀ bs).dt = s.dt := rfl
@[simp] theorem State.storeBytes_st (a₀ : Nat) (bs : List Byte) : (s.storeBytes a₀ bs).st = s.st := rfl
@[simp] theorem State.storeBytes_mem (a₀ : Nat) (bs : List Byte) : (s.storeBytes a₀ bs).mem = Memory.writeBytes s.mem a₀ bs := rfl
@[simp] theorem State.storeBytes_disp (a₀ : Nat) (bs : List Byte) : (s.storeBytes a₀ bs).disp = s.disp := rfl
@[simp] theorem State.storeBytes_keyCur (a₀ : Nat) (bs : List Byte) : (s.storeBytes a₀ bs).keyCur = s.keyCur := rfl
@[simp] theorem State.storeBytes_keyPrev (a₀ : Nat) (bs : List Byte) : (s.storeBytes a₀ bs).keyPrev = s.keyPrev := rfl
@[simp] theorem State.storeBytes_lastRand (a₀ : Nat) (bs : List Byte) : (s.storeBytes a₀ bs).lastRand = s.lastRand := rfl
@[simp] theorem State.storeBytes_changeList (a₀ : Nat) (bs : List Byte) : (s.storeBytes a₀ bs).changeList = s.changeList := rfl
@[simp] theorem State.storeBytes_drawFlag (a₀ : Nat) (bs : List Byte) : (s.storeBytes a₀ bs).drawFlag = s.drawFlag := rfl
@[simp] theorem State.storeBytes_status (a₀ : Nat) (bs : List Byte) : (s.storeBytes a₀ bs).status = s.status := rfl
@[simp] theorem State.storeBytes_params (a₀ : Nat) (bs : List Byte) : (s.storeBytes a₀ bs).params = s.params := rfl
@[simp] theorem State.storeBytes_freeCount (a₀ : Nat) (bs : List Byte) : (s.storeBytes a₀ bs).freeCount = s.freeCount := rfl
@[simp] theorem State.storeBytes_readV (a₀ : Nat) (bs : List Byte) (r : RegNum) : (s.storeBytes a₀ bs).readV r = s.readV r := rfl
@[simp] theorem State.storeBytes_pixel (a₀ : Nat) (bs : List Byte) (r : Fin 32) (c : Fin 64) : (s.storeBytes a₀ bs).pixel r c = s.pixel r c := rfl
@[simp] theorem State.storeBytes_keyDown (a₀ : Nat) (bs : List Byte) (k : RegNum) : (s.storeBytes a₀ bs).keyDown k = s.keyDown k := rfl
@[simp] theorem State.storeBytes_keyWasDown (a₀ : Nat) (bs : List Byte) (k : RegNum) : (s.storeBytes a₀ bs).keyWasDown k = s.keyWasDown k := rfl
@[simp] theorem State.storeBytes_depth (a₀ : Nat) (bs : List Byte) : (s.storeBytes a₀ bs).depth = s.depth := rfl


/-! `State.present` -/

@[simp] theorem State.present_v (d : Grid) (l : List PixelChange) : (s.present d l).v = s.v := rfl
@[simp] theorem State.present_i (d : Grid) (l : List PixelChange) : (s.present d l).i = s.i := rfl
@[simp] theorem State.present_pc (d : Grid) (l : List PixelChange) : (s.present d l).pc = s.pc := rfl
@[simp] theorem State.present_stack (d : Grid) (l : List PixelChange) : (s.present d l).stack = s.stack := rfl
@[simp] theorem State.present_dt (d : Grid) (l : List PixelChange) : (s.present d l).dt = s.dt := rfl
@[simp] theorem State.present_st (d : Grid) (l : List PixelChange) : (s.present d l).st = s.st := rfl
@[simp] theorem State.present_mem (d : Grid) (l : List PixelChange) : (s.present d l).mem = s.mem := rfl
@[simp] theorem State.present_disp (d : Grid) (l : List PixelChange) : (s.present d l).disp = d := rfl
@[simp] theorem State.present_keyCur (d : Grid) (l : List PixelChange) : (s.present d l).keyCur = s.keyCur := rfl
@[simp] theorem State.present_keyPrev (d : Grid) (l : List PixelChange) : (s.present d l).keyPrev = s.keyPrev := rfl
@[simp] theorem State.present_lastRand (d : Grid) (l : List PixelChange) : (s.present d l).lastRand = s.lastRand := rfl
@[simp] theorem State.present_changeList (d : Grid) (l : List PixelChange) : (s.present d l).changeList = l := rfl
@[simp] theorem State.present_drawFlag (d : Grid) (l : List PixelChange) : (s.present d l).drawFlag = true := rfl
@[simp] theorem State.present_status (d : Grid) (l : List PixelChange) : (s.present d l).status = s.status := rfl
@[simp] theorem State.present_params (d : Grid) (l : List PixelChange) : (s.present d l).params = s.params := rfl
@[simp] theorem State.present_freeCount (d : Grid) (l : List PixelChange) : (s.present d l).freeCount = s.freeCount := rfl
@[simp] theorem State.present_readV (d : Grid) (l : List PixelChange) (r : RegNum) : (s.present d l).readV r = s.readV r := rfl
@[simp] theorem State.present_readMem (d : Grid) (l : List PixelChange) (a : Nat) : (s.present d l).readMem a = s.readMem a := rfl
@[simp] theorem State.present_keyDown (d : Grid) (l : List PixelChange) (k : RegNum) : (s.present d l).keyDown k = s.keyDown k := rfl
@[simp] theorem State.present_keyWasDown (d : Grid) (l : List PixelChange) (k : RegNum) : (s.present d l).keyWasDown k = s.keyWasDown k := rfl
@[simp] theorem State.present_depth (d : Grid) (l : List PixelChange) : (s.present d l).depth = s.depth := rfl


/-! `State.drawRand` -/

@[simp] theorem State.drawRand_v : (s.drawRand).v = s.v := rfl
@[simp] theorem State.drawRand_i : (s.drawRand).i = s.i := rfl
@[simp] theorem State.drawRand_pc : (s.drawRand).pc = s.pc := rfl
@[simp] theorem State.drawRand_stack : (s.drawRand).stack = s.stack := rfl
@[simp] theorem State.drawRand_dt : (s.drawRand).dt = s.dt := rfl
@[simp] theorem State.drawRand_st : (s.drawRand).st = s.st := rfl
@[simp] theorem State.drawRand_mem : (s.drawRand).mem = s.mem := rfl
@[simp] theorem State.drawRand_disp : (s.drawRand).disp = s.disp := rfl
@[simp] theorem State.drawRand_keyCur : (s.drawRand).keyCur = s.keyCur := rfl
@[simp] theorem State.drawRand_keyPrev : (s.drawRand).keyPrev = s.keyPrev := rfl
@[simp] theorem State.drawRand_lastRand : (s.drawRand).lastRand = s.nextRand := rfl
@[simp] theorem State.drawRand_changeList : (s.drawRand).changeList = s.changeList := rfl
@[simp] theorem State.drawRand_drawFlag : (s.drawRand).drawFlag = s.drawFlag := rfl
@[simp] theorem State.drawRand_status : (s.drawRand).status = s.status := rfl
@[simp] theorem State.drawRand_params : (s.drawRand).params = s.params := rfl
@[simp] theorem State.drawRand_freeCount : (s.drawRand).freeCount = s.freeCount + 1 := rfl
@[simp] theorem State.drawRand_readV (r : RegNum) : (s.drawRand).readV r = s.readV r := rfl
@[simp] theorem State.drawRand_readMem (a : Nat) : (s.drawRand).readMem a = s.readMem a := rfl
@[simp] theorem State.drawRand_pixel (r : Fin 32) (c : Fin 64) : (s.drawRand).pixel r c = s.pixel r c := rfl
@[simp] theorem State.drawRand_keyDown (k : RegNum) : (s.drawRand).keyDown k = s.keyDown k := rfl
@[simp] theorem State.drawRand_keyWasDown (k : RegNum) : (s.drawRand).keyWasDown k = s.keyWasDown k := rfl
@[simp] theorem State.drawRand_depth : (s.drawRand).depth = s.depth := rfl


/-! `State.enterExecute` -/

@[simp] theorem State.enterExecute_v : (s.enterExecute).v = s.v := rfl
@[simp] theorem State.enterExecute_i : (s.enterExecute).i = s.i := rfl
@[simp] theorem State.enterExecute_pc : (s.enterExecute).pc = mask12 (s.pc + 2#16) := rfl
@[simp] theorem State.enterExecute_stack : (s.enterExecute).stack = s.stack := rfl
@[simp] theorem State.enterExecute_dt : (s.enterExecute).dt = s.dt := rfl
@[simp] theorem State.enterExecute_st : (s.enterExecute).st = s.st := rfl
@[simp] theorem State.enterExecute_mem : (s.enterExecute).mem = s.mem := rfl
@[simp] theorem State.enterExecute_disp : (s.enterExecute).disp = s.disp := rfl
@[simp] theorem State.enterExecute_keyCur : (s.enterExecute).keyCur = s.keyCur := rfl
@[simp] theorem State.enterExecute_keyPrev : (s.enterExecute).keyPrev = s.keyPrev := rfl
@[simp] theorem State.enterExecute_lastRand : (s.enterExecute).lastRand = s.lastRand := rfl
@[simp] theorem State.enterExecute_changeList : (s.enterExecute).changeList = s.changeList := rfl
@[simp] theorem State.enterExecute_drawFlag : (s.enterExecute).drawFlag = false := rfl
@[simp] theorem State.enterExecute_status : (s.enterExecute).status = s.status := rfl
@[simp] theorem State.enterExecute_params : (s.enterExecute).params = s.params := rfl
@[simp] theorem State.enterExecute_freeCount : (s.enterExecute).freeCount = s.freeCount := rfl
@[simp] theorem State.enterExecute_readV (r : RegNum) : (s.enterExecute).readV r = s.readV r := rfl
@[simp] theorem State.enterExecute_readMem (a : Nat) : (s.enterExecute).readMem a = s.readMem a := rfl
@[simp] theorem State.enterExecute_pixel (r : Fin 32) (c : Fin 64) : (s.enterExecute).pixel r c = s.pixel r c := rfl
@[simp] theorem State.enterExecute_keyDown (k : RegNum) : (s.enterExecute).keyDown k = s.keyDown k := rfl
@[simp] theorem State.enterExecute_keyWasDown (k : RegNum) : (s.enterExecute).keyWasDown k = s.keyWasDown k := rfl
@[simp] theorem State.enterExecute_depth : (s.enterExecute).depth = s.depth := rfl


/-! `State.skip` -/

@[simp] theorem State.skip_v : (s.skip).v = s.v := rfl
@[simp] theorem State.skip_i : (s.skip).i = s.i := rfl
@[simp] theorem State.skip_pc : (s.skip).pc = mask12 (s.pc + 2#16) := rfl
@[simp] theorem State.skip_stack : (s.skip).stack = s.stack := rfl
@[simp] theorem State.skip_dt : (s.skip).dt = s.dt := rfl
@[simp] theorem State.skip_st : (s.skip).st = s.st := rfl
@[simp] theorem State.skip_mem : (s.skip).mem = s.mem := rfl
@[simp] theorem State.skip_disp : (s.skip).disp = s.disp := rfl
@[simp] theorem State.skip_keyCur : (s.skip).keyCur = s.keyCur := rfl
@[simp] theorem State.skip_keyPrev : (s.skip).keyPrev = s.keyPrev := rfl
@[simp] theorem State.skip_lastRand : (s.skip).lastRand = s.lastRand := rfl
@[simp] theorem State.skip_changeList : (s.skip).changeList = s.changeList := rfl
@[simp] theorem State.skip_drawFlag : (s.skip).drawFlag = s.drawFlag := rfl
@[simp] theorem State.skip_status : (s.skip).status = s.status := rfl
@[simp] theorem State.skip_params : (s.skip).params = s.params := rfl
@[simp] theorem State.skip_freeCount : (s.skip).freeCount = s.freeCount := rfl
@[simp] theorem State.skip_readV (r : RegNum) : (s.skip).readV r = s.readV r := rfl
@[simp] theorem State.skip_readMem (a : Nat) : (s.skip).readMem a = s.readMem a := rfl
@[simp] theorem State.skip_pixel (r : Fin 32) (c : Fin 64) : (s.skip).pixel r c = s.pixel r c := rfl
@[simp] theorem State.skip_keyDown (k : RegNum) : (s.skip).keyDown k = s.keyDown k := rfl
@[simp] theorem State.skip_keyWasDown (k : RegNum) : (s.skip).keyWasDown k = s.keyWasDown k := rfl
@[simp] theorem State.skip_depth : (s.skip).depth = s.depth := rfl


/-! `State.skipIf` -/

@[simp] theorem State.skipIf_v (c₀ : Bool) : (s.skipIf c₀).v = s.v := by cases c₀ <;> rfl
@[simp] theorem State.skipIf_i (c₀ : Bool) : (s.skipIf c₀).i = s.i := by cases c₀ <;> rfl
@[simp] theorem State.skipIf_pc (c₀ : Bool) : (s.skipIf c₀).pc = if c₀ then mask12 (s.pc + 2#16) else s.pc := by cases c₀ <;> rfl
@[simp] theorem State.skipIf_stack (c₀ : Bool) : (s.skipIf c₀).stack = s.stack := by cases c₀ <;> rfl
@[simp] theorem State.skipIf_dt (c₀ : Bool) : (s.skipIf c₀).dt = s.dt := by cases c₀ <;> rfl
@[simp] theorem State.skipIf_st (c₀ : Bool) : (s.skipIf c₀).st = s.st := by cases c₀ <;> rfl
@[simp] theorem State.skipIf_mem (c₀ : Bool) : (s.skipIf c₀).mem = s.mem := by cases c₀ <;> rfl
@[simp] theorem State.skipIf_disp (c₀ : Bool) : (s.skipIf c₀).disp = s.disp := by cases c₀ <;> rfl
@[simp] theorem State.skipIf_keyCur (c₀ : Bool) : (s.skipIf c₀).keyCur = s.keyCur := by cases c₀ <;> rfl
@[simp] theorem State.skipIf_keyPrev (c₀ : Bool) : (s.skipIf c₀).keyPrev = s.keyPrev := by cases c₀ <;> rfl
@[simp] theorem State.skipIf_lastRand (c₀ : Bool) : (s.skipIf c₀).lastRand = s.lastRand := by cases c₀ <;> rfl
@[simp] theorem State.skipIf_changeList (c₀ : Bool) : (s.skipIf c₀).changeList = s.changeList := by cases c₀ <;> rfl
@[simp] theorem State.skipIf_drawFlag (c₀ : Bool) : (s.skipIf c₀).drawFlag = s.drawFlag := by cases c₀ <;> rfl
@[simp] theorem State.skipIf_status (c₀ : Bool) : (s.skipIf c₀).status = s.status := by cases c₀ <;> rfl
@[simp] theorem State.skipIf_params (c₀ : Bool) : (s.skipIf c₀).params = s.params := by cases c₀ <;> rfl
@[simp] theorem State.skipIf_freeCount (c₀ : Bool) : (s.skipIf c₀).freeCount = s.freeCount := by cases c₀ <;> rfl
@[simp] theorem State.skipIf_readV (c₀ : Bool) (r : RegNum) : (s.skipIf c₀).readV r = s.readV r := by cases c₀ <;> rfl
@[simp] theorem State.skipIf_readMem (c₀ : Bool) (a : Nat) : (s.skipIf c₀).readMem a = s.readMem a := by cases c₀ <;> rfl
@[simp] theorem State.skipIf_pixel (c₀ : Bool) (r : Fin 32) (c : Fin 64) : (s.skipIf c₀).pixel r c = s.pixel r c := by cases c₀ <;> rfl
@[simp] theorem State.skipIf_keyDown (c₀ : Bool) (k : RegNum) : (s.skipIf c₀).keyDown k = s.keyDown k := by cases c₀ <;> rfl
@[simp] theorem State.skipIf_keyWasDown (c₀ : Bool) (k : RegNum) : (s.skipIf c₀).keyWasDown k = s.keyWasDown k := by cases c₀ <;> rfl
@[simp] theorem State.skipIf_depth (c₀ : Bool) : (s.skipIf c₀).depth = s.depth := by cases c₀ <;> rfl


/-! `State.setFlagThenV` -/

@[simp] theorem State.setFlagThenV_v (x : RegNum) (f : Bool) (b : Byte) : (s.setFlagThenV x f b).v = (s.v.set VF (bool01 f)).set x b := rfl
@[simp] theorem State.setFlagThenV_i (x : RegNum) (f : Bool) (b : Byte) : (s.setFlagThenV x f b).i = s.i := rfl
@[simp] theorem State.setFlagThenV_pc (x : RegNum) (f : Bool) (b : Byte) : (s.setFlagThenV x f b).pc = s.pc := rfl
@[simp] theorem State.setFlagThenV_stack (x : RegNum) (f : Bool) (b : Byte) : (s.setFlagThenV x f b).stack = s.stack := rfl
@[simp] theorem State.setFlagThenV_dt (x : RegNum) (f : Bool) (b : Byte) : (s.setFlagThenV x f b).dt = s.dt := rfl
@[simp] theorem State.setFlagThenV_st (x : RegNum) (f : Bool) (b : Byte) : (s.setFlagThenV x f b).st = s.st := rfl
@[simp] theorem State.setFlagThenV_mem (x : RegNum) (f : Bool) (b : Byte) : (s.setFlagThenV x f b).mem = s.mem := rfl
@[simp] theorem State.setFlagThenV_disp (x : RegNum) (f : Bool) (b : Byte) : (s.setFlagThenV x f b).disp = s.disp := rfl
@[simp] theorem State.setFlagThenV_keyCur (x : RegNum) (f : Bool) (b : Byte) : (s.setFlagThenV x f b).keyCur = s.keyCur := rfl
@[simp] theorem State.setFlagThenV_keyPrev (x : RegNum) (f : Bool) (b : Byte) : (s.setFlagThenV x f b).keyPrev = s.keyPrev := rfl
@[simp] theorem State.setFlagThenV_lastRand (x : RegNum) (f : Bool) (b : Byte) : (s.setFlagThenV x f b).lastRand = s.lastRand := rfl
@[simp] theorem State.setFlagThenV_changeList (x : RegNum) (f : Bool) (b : Byte) : (s.setFlagThenV x f b).changeList = s.changeList := rfl
@[simp] theorem State.setFlagThenV_drawFlag (x : RegNum) (f : Bool) (b : Byte) : (s.setFlagThenV x f b).drawFlag = s.drawFlag := rfl
@[simp] theorem State.setFlagThenV_status (x : RegNum) (f : Bool) (b : Byte) : (s.setFlagThenV x f b).status = s.status := rfl
@[simp] theorem State.setFlagThenV_params (x : RegNum) (f : Bool) (b : Byte) : (s.setFlagThenV x f b).params = s.params := rfl
@[simp] theorem State.setFlagThenV_freeCount (x : RegNum) (f : Bool) (b : Byte) : (s.setFlagThenV x f b).freeCount = s.freeCount := rfl
@[simp] theorem State.setFlagThenV_readMem (x : RegNum) (f : Bool) (b : Byte) (a : Nat) : (s.setFlagThenV x f b).readMem a = s.readMem a := rfl
@[simp] theorem State.setFlagThenV_pixel (x : RegNum) (f : Bool) (b : Byte) (r : Fin 32) (c : Fin 64) : (s.setFlagThenV x f b).pixel r c = s.pixel r c := rfl
@[simp] theorem State.setFlagThenV_keyDown (x : RegNum) (f : Bool) (b : Byte) (k : RegNum) : (s.setFlagThenV x f b).keyDown k = s.keyDown k := rfl
@[simp] theorem State.setFlagThenV_keyWasDown (x : RegNum) (f : Bool) (b : Byte) (k : RegNum) : (s.setFlagThenV x f b).keyWasDown k = s.keyWasDown k := rfl
@[simp] theorem State.setFlagThenV_depth (x : RegNum) (f : Bool) (b : Byte) : (s.setFlagThenV x f b).depth = s.depth := rfl


/-! `State.takeFault` -/

@[simp] theorem State.takeFault_v (c₀ : FaultCause) : (s.takeFault c₀).v = s.v := rfl
@[simp] theorem State.takeFault_i (c₀ : FaultCause) : (s.takeFault c₀).i = s.i := rfl
@[simp] theorem State.takeFault_pc (c₀ : FaultCause) : (s.takeFault c₀).pc = if Config.faultPcAdvanced s.freeCount then mask12 (s.pc + 2#16) else s.pc := rfl
@[simp] theorem State.takeFault_stack (c₀ : FaultCause) : (s.takeFault c₀).stack = s.stack := rfl
@[simp] theorem State.takeFault_dt (c₀ : FaultCause) : (s.takeFault c₀).dt = s.dt := rfl
@[simp] theorem State.takeFault_st (c₀ : FaultCause) : (s.takeFault c₀).st = s.st := rfl
@[simp] theorem State.takeFault_mem (c₀ : FaultCause) : (s.takeFault c₀).mem = s.mem := rfl
@[simp] theorem State.takeFault_disp (c₀ : FaultCause) : (s.takeFault c₀).disp = s.disp := rfl
@[simp] theorem State.takeFault_keyCur (c₀ : FaultCause) : (s.takeFault c₀).keyCur = s.keyCur := rfl
@[simp] theorem State.takeFault_keyPrev (c₀ : FaultCause) : (s.takeFault c₀).keyPrev = s.keyPrev := rfl
@[simp] theorem State.takeFault_lastRand (c₀ : FaultCause) : (s.takeFault c₀).lastRand = s.lastRand := rfl
@[simp] theorem State.takeFault_changeList (c₀ : FaultCause) : (s.takeFault c₀).changeList = s.changeList := rfl
@[simp] theorem State.takeFault_drawFlag (c₀ : FaultCause) : (s.takeFault c₀).drawFlag = if Config.faultFlagCleared s.freeCount then false else s.drawFlag := rfl
@[simp] theorem State.takeFault_status (c₀ : FaultCause) : (s.takeFault c₀).status = .faulted ⟨c₀, s.pc⟩ := rfl
@[simp] theorem State.takeFault_params (c₀ : FaultCause) : (s.takeFault c₀).params = s.params := rfl
@[simp] theorem State.takeFault_freeCount (c₀ : FaultCause) : (s.takeFault c₀).freeCount = s.freeCount + 1 := rfl
@[simp] theorem State.takeFault_readV (c₀ : FaultCause) (r : RegNum) : (s.takeFault c₀).readV r = s.readV r := rfl
@[simp] theorem State.takeFault_readMem (c₀ : FaultCause) (a : Nat) : (s.takeFault c₀).readMem a = s.readMem a := rfl
@[simp] theorem State.takeFault_pixel (c₀ : FaultCause) (r : Fin 32) (c : Fin 64) : (s.takeFault c₀).pixel r c = s.pixel r c := rfl
@[simp] theorem State.takeFault_keyDown (c₀ : FaultCause) (k : RegNum) : (s.takeFault c₀).keyDown k = s.keyDown k := rfl
@[simp] theorem State.takeFault_keyWasDown (c₀ : FaultCause) (k : RegNum) : (s.takeFault c₀).keyWasDown k = s.keyWasDown k := rfl
@[simp] theorem State.takeFault_depth (c₀ : FaultCause) : (s.takeFault c₀).depth = s.depth := rfl


/-! `State.tickTimers` -/

@[simp] theorem State.tickTimers_v : (s.tickTimers).v = s.v := rfl
@[simp] theorem State.tickTimers_i : (s.tickTimers).i = s.i := rfl
@[simp] theorem State.tickTimers_pc : (s.tickTimers).pc = s.pc := rfl
@[simp] theorem State.tickTimers_stack : (s.tickTimers).stack = s.stack := rfl
@[simp] theorem State.tickTimers_dt : (s.tickTimers).dt = countDown s.dt := rfl
@[simp] theorem State.tickTimers_st : (s.tickTimers).st = countDown s.st := rfl
@[simp] theorem State.tickTimers_mem : (s.tickTimers).mem = s.mem := rfl
@[simp] theorem State.tickTimers_disp : (s.tickTimers).disp = s.disp := rfl
@[simp] theorem State.tickTimers_keyCur : (s.tickTimers).keyCur = s.keyCur := rfl
@[simp] theorem State.tickTimers_keyPrev : (s.tickTimers).keyPrev = s.keyPrev := rfl
@[simp] theorem State.tickTimers_lastRand : (s.tickTimers).lastRand = s.lastRand := rfl
@[simp] theorem State.tickTimers_changeList : (s.tickTimers).changeList = s.changeList := rfl
@[simp] theorem State.tickTimers_drawFlag : (s.tickTimers).drawFlag = s.drawFlag := rfl
@[simp] theorem State.tickTimers_status : (s.tickTimers).status = s.status := rfl
@[simp] theorem State.tickTimers_params : (s.tickTimers).params = s.params := rfl
@[simp] theorem State.tickTimers_freeCount : (s.tickTimers).freeCount = s.freeCount := rfl
@[simp] theorem State.tickTimers_readV (r : RegNum) : (s.tickTimers).readV r = s.readV r := rfl
@[simp] theorem State.tickTimers_readMem (a : Nat) : (s.tickTimers).readMem a = s.readMem a := rfl
@[simp] theorem State.tickTimers_pixel (r : Fin 32) (c : Fin 64) : (s.tickTimers).pixel r c = s.pixel r c := rfl
@[simp] theorem State.tickTimers_keyDown (k : RegNum) : (s.tickTimers).keyDown k = s.keyDown k := rfl
@[simp] theorem State.tickTimers_keyWasDown (k : RegNum) : (s.tickTimers).keyWasDown k = s.keyWasDown k := rfl
@[simp] theorem State.tickTimers_depth : (s.tickTimers).depth = s.depth := rfl


/-! The accessors of the field an update writes. -/

@[simp] theorem State.setV_readV_self (x : RegNum) (b : Byte) : (s.setV x b).readV x = b := by
  simp [State.readV]

theorem State.setV_readV_ne {x r : RegNum} (h : r ≠ x) (b : Byte) : (s.setV x b).readV r = s.readV r := by
  have h' : ¬ x.val = r.val := fun e => h (Fin.ext e.symm)
  simp [State.readV, h']

theorem State.setV_readV (x r : RegNum) (b : Byte) : (s.setV x b).readV r = if r = x then b else s.readV r := by
  split
  · next h => subst h; simp
  · next h => exact s.setV_readV_ne h b

/-- With x = F the result stays, not the flag (R100). -/
@[simp] theorem State.setFlagThenV_readV_self (x : RegNum) (f : Bool) (b : Byte) :
    (s.setFlagThenV x f b).readV x = b := by
  simp [State.setFlagThenV]

theorem State.setFlagThenV_readV_VF {x : RegNum} (h : x ≠ VF) (f : Bool) (b : Byte) :
    (s.setFlagThenV x f b).readV VF = bool01 f := by
  simp [State.setFlagThenV, State.setV_readV_ne _ (Ne.symm h)]

theorem State.setFlagThenV_readV_ne {x r : RegNum} (hx : r ≠ x) (hf : r ≠ VF) (f : Bool) (b : Byte) :
    (s.setFlagThenV x f b).readV r = s.readV r := by
  simp [State.setFlagThenV, State.setV_readV_ne _ hx, State.setV_readV_ne _ hf]

@[simp] theorem State.setAllV_readV (w : Vector Byte 16) (r : RegNum) : (s.setAllV w).readV r = w[r] := rfl

@[simp] theorem State.push_depth (w : Word) : (s.push w).depth = s.depth + 1 := by
  simp [State.depth]

@[simp] theorem State.present_pixel (d : Grid) (l : List PixelChange) (r : Fin 32) (c : Fin 64) :
    (s.present d l).pixel r c = d[r][c] := rfl

end

end Sys2Proof.Machine
end

