-- ==== Sys2Proof/Laws/Ops.lean ====
section
/-! SUPPORT. Laws/Ops.lean: what each shared operation can do, once: masks, flags, checks, fault entry, operand forms. -/

namespace Sys2Proof.Machine

/-! Masks and operand forms. -/

@[simp] theorem mask12_toNat (w : Word) : (mask12 w).toNat = w.toNat % 4096 := by
  simp [mask12, BitVec.toNat_umod]

theorem mask12_inSpace (w : Word) : inSpace (mask12 w) := by
  simp only [inSpace, mask12_toNat]; omega

theorem mask12_of_inSpace {w : Word} (h : inSpace w) : mask12 w = w := by
  apply BitVec.eq_of_toNat_eq
  simp only [inSpace] at h
  rw [mask12_toNat]; omega

@[simp] theorem zext8_toNat (b : Byte) : (zext8 b).toNat = b.toNat := by
  have := b.isLt
  simp only [zext8, BitVec.toNat_setWidth]; omega

@[simp] theorem zext12_toNat (a : Addr) : (zext12 a).toNat = a.toNat := by
  have := a.isLt
  simp only [zext12, BitVec.toNat_setWidth]; omega

@[simp] theorem glyphAddr_toNat (b : Byte) : (glyphAddr b).toNat = 0x050 + 5 * (b.toNat % 16) := by
  simp only [glyphAddr, BitVec.toNat_ofNat, Config.fontBase]; omega

@[simp] theorem keyIndex_val (b : Byte) : (keyIndex b).val = b.toNat % 16 := rfl

@[simp] theorem spriteRow_val (b : Byte) (k : Nat) : (spriteRow b k).val = (b.toNat + k) % 32 := rfl

@[simp] theorem spriteCol_val (b : Byte) (k : Nat) : (spriteCol b k).val = (b.toNat + k) % 64 := rfl

@[simp] theorem State.atI_eq (s : State) (k : Nat) : s.atI k = s.i.toNat + k := rfl

@[simp] theorem bcdDigits_length (b : Byte) : (bcdDigits b).length = 3 := rfl

@[simp] theorem State.regsUpTo_length (s : State) (x : RegNum) : (s.regsUpTo x).length = x.val + 1 := by
  simp only [State.regsUpTo, List.length_take, Vector.length_toList]; omega

theorem State.regsUpTo_getElem (s : State) (x : RegNum) (k : Nat) (h : k < (s.regsUpTo x).length) :
    (s.regsUpTo x)[k] = s.readV ⟨k, by simp only [State.regsUpTo_length] at h; omega⟩ := by
  simp [State.regsUpTo, State.readV]

theorem State.loadedRegs_getElem (s : State) (x k : RegNum) :
    (s.loadedRegs x)[k] = if k ≤ x then s.readMem (s.i.toNat + k.val) else s.readV k := by
  simp [State.loadedRegs]

/-! Flags (R100, R114). -/

@[simp] theorem bool01_true : bool01 true = 1#8 := rfl
@[simp] theorem bool01_false : bool01 false = 0#8 := rfl

theorem bool01_toNat (b : Bool) : (bool01 b).toNat = if b then 1 else 0 := by cases b <;> rfl

theorem bool01_zero_or_one (b : Bool) : bool01 b = 0#8 ∨ bool01 b = 1#8 := by cases b <;> simp

theorem bool01_eq_one {b : Bool} : bool01 b = 1#8 ↔ b = true := by cases b <;> simp

theorem bool01_eq_zero {b : Bool} : bool01 b = 0#8 ↔ b = false := by cases b <;> simp

theorem bool01_lowBit (a : Byte) : (bool01 (lowBit a)).toNat = a.toNat % 2 := by
  revert a; decide

theorem bool01_highBit (a : Byte) : (bool01 (highBit a)).toNat = a.toNat / 128 := by
  revert a; decide

/-! The start of an execute phase, and fault entry. -/

theorem State.enterExecute_advanced (s : State) : Advanced s s.enterExecute := by
  simp only [Advanced, State.enterExecute_pc, mask12_toNat, BitVec.toNat_add, BitVec.toNat_ofNat]; omega

/-- Fault entry is what R214 says it is. -/
theorem State.takeFault_faulted (s : State) (c : FaultCause) : Faulted s (s.takeFault c) c where
  status := rfl
  pc := by
    have h := s.enterExecute_advanced
    simp only [Advanced, State.enterExecute_pc, State.takeFault_pc] at h ⊢
    split
    · exact .inr h
    · exact .inl rfl
  drawFlag := by
    simp only [State.takeFault_drawFlag]
    split
    · exact .inr rfl
    · exact .inl rfl
  v _ := rfl
  i := rfl
  stack := rfl
  dt := rfl
  st := rfl
  mem _ := rfl
  disp _ _ := rfl
  keyDown _ := rfl
  keyWasDown _ := rfl
  lastRand := rfl
  changeList := rfl
  params := rfl

@[simp] theorem raise_eq (c : FaultCause) (s : State) : raise c s = .next (s.takeFault c) := rfl

@[simp] theorem checked_none (s t : State) : checked none s t = .next t := rfl

@[simp] theorem checked_some (c : FaultCause) (s t : State) : checked (some c) s t = .next (s.takeFault c) := rfl

/-- All that a checked effect can answer. -/
theorem checked_cases {chk : Option FaultCause} {s t u : State} (h : checked chk s t = .next u) :
    (∃ c, chk = some c ∧ u = s.takeFault c) ∨ (chk = none ∧ u = t) := by
  cases chk with
  | none => exact .inr ⟨rfl, by simpa using h.symm⟩
  | some c => exact .inl ⟨c, rfl, by simpa using h.symm⟩

theorem checkRead_eq_none {lo hi : Nat} : checkRead lo hi = none ↔ hi ≤ 0xFFF := by
  simp [checkRead]

theorem checkRead_eq_some {lo hi : Nat} {c : FaultCause} :
    checkRead lo hi = some c ↔ 0xFFF < hi ∧ c = .outOfRange lo hi .read := by
  simp only [checkRead]; split <;> simp_all [eq_comm]

theorem State.checkWrite_eq_none {s : State} {lo hi : Nat} :
    s.checkWrite lo hi = none ↔ s.params.writeLo ≤ lo ∧ hi ≤ 0xFFF := by
  simp [State.checkWrite]

theorem State.checkWrite_eq_some {s : State} {lo hi : Nat} {c : FaultCause} :
    s.checkWrite lo hi = some c ↔ (lo < s.params.writeLo ∨ 0xFFF < hi) ∧ c = .outOfRange lo hi .write := by
  simp only [State.checkWrite]; split <;> simp_all [eq_comm]

theorem State.checkSprite_eq_none {s : State} {n : Count} :
    s.checkSprite n = none ↔ n.val = 0 ∨ s.i.toNat + n.val ≤ 0x1000 := by
  simp only [State.checkSprite]
  split
  · next h => simp [h]
  · next h => rw [checkRead_eq_none]; simp only [State.atI_eq]; omega

theorem State.checkSprite_eq_some {s : State} {n : Count} {c : FaultCause} :
    s.checkSprite n = some c ↔
      (n.val ≠ 0 ∧ 0x1000 < s.i.toNat + n.val) ∧ c = .outOfRange s.i.toNat (s.i.toNat + (n.val - 1)) .read := by
  simp only [State.checkSprite]
  split
  · next h => simp [h]
  · next h =>
    rw [checkRead_eq_some]
    simp only [State.atI_eq, Nat.add_zero, and_congr_left_iff]
    intro _; omega

/-! The release edge of LD Vx,K (R192). -/

theorem State.releasedKey_eq_none {s : State} :
    s.releasedKey = none ↔ ∀ k, ¬ (s.keyWasDown k = true ∧ s.keyDown k = false) := by
  simp [State.releasedKey]

/-- The key found is released and the lowest that is (D11). -/
theorem State.releasedKey_eq_some {s : State} {k : RegNum} :
    s.releasedKey = some k ↔ (s.keyWasDown k = true ∧ s.keyDown k = false) ∧
      ∀ j, j < k → ¬ (s.keyWasDown j = true ∧ s.keyDown j = false) := by
  have sorted : (List.finRange 16).Pairwise (· < ·) := List.pairwise_lt_finRange 16
  constructor
  · intro h
    have hk := List.find?_some h
    refine ⟨by simpa using hk, fun j hj hjr => ?_⟩
    obtain ⟨_, as, bs, hl, has⟩ := List.find?_eq_some_iff_append.mp h
    have hjmem : j ∈ List.finRange 16 := List.mem_finRange j
    rw [hl] at hjmem sorted
    rcases List.mem_append.mp hjmem with hja | hjb
    · have := has j hja; simp_all
    · rcases List.mem_cons.mp hjb with rfl | hjb
      · exact absurd hj (lt_irrefl _)
      · have := (List.pairwise_append.mp sorted).2.1
        have := (List.pairwise_cons.mp this).1 j hjb
        exact absurd hj (not_lt.mpr (le_of_lt this))
  · rintro ⟨hk, hmin⟩
    cases hf : s.releasedKey with
    | none => exact absurd hk (State.releasedKey_eq_none.mp hf k)
    | some m =>
      have hm := List.find?_some hf
      obtain ⟨_, as, bs, hl, has⟩ := List.find?_eq_some_iff_append.mp hf
      have hkmem : k ∈ List.finRange 16 := List.mem_finRange k
      rw [hl] at hkmem sorted
      rcases List.mem_append.mp hkmem with hka | hkb
      · have := has k hka; simp_all
      · rcases List.mem_cons.mp hkb with rfl | hkb
        · rfl
        · have := (List.pairwise_append.mp sorted).2.1
          have hlt := (List.pairwise_cons.mp this).1 k hkb
          exact absurd (by simpa using hm) (hmin m hlt)

end Sys2Proof.Machine
end

