-- ==== Sys2Proof/Laws/Display.lean ====
section
/-! SUPPORT. Laws/Display.lean: a draw as the toggling of a list of positions, no position twice (R171–R173). -/

namespace Sys2Proof.Machine

/-- The positions a sprite's set bits fall on, from sprite row `k` on, in the order they are drawn (R171). -/
def spritePlots (cx cy : Byte) : Nat → List Byte → List (Fin 32 × Fin 64)
  | _, [] => []
  | k, b :: bs =>
    (((List.range 8).filter (spriteBit b)).map fun j => (spriteRow cy k, spriteCol cx j)) ++
      spritePlots cx cy (k + 1) bs

/-- A draw of a list of positions, one toggle each. -/
def Drawing.plots (d : Drawing) (ps : List (Fin 32 × Fin 64)) : Drawing := ps.foldl (fun d p => d.toggle p.1 p.2) d

@[simp] theorem Drawing.plots_nil (d : Drawing) : d.plots [] = d := rfl

@[simp] theorem Drawing.plots_cons (d : Drawing) (p : Fin 32 × Fin 64) (ps : List (Fin 32 × Fin 64)) :
    d.plots (p :: ps) = (d.toggle p.1 p.2).plots ps := rfl

theorem Drawing.plots_append (d : Drawing) (ps qs : List (Fin 32 × Fin 64)) :
    d.plots (ps ++ qs) = (d.plots ps).plots qs := by
  simp [Drawing.plots, List.foldl_append]

theorem Drawing.foldl_toggle_eq_plots (d : Drawing) (r : Fin 32) (cx b : Byte) (l : List Nat) :
    l.foldl (fun d c => if spriteBit b c then d.toggle r (spriteCol cx c) else d) d =
      d.plots ((l.filter (spriteBit b)).map fun j => (r, spriteCol cx j)) := by
  induction l generalizing d with
  | nil => rfl
  | cons j l ih =>
    cases h : spriteBit b j <;> simp [h, ih]

theorem Drawing.row_eq_plots (d : Drawing) (r : Fin 32) (cx b : Byte) :
    d.row r cx b = d.plots (((List.range 8).filter (spriteBit b)).map fun j => (r, spriteCol cx j)) :=
  Drawing.foldl_toggle_eq_plots d r cx b (List.range 8)

/-- A draw toggles the positions of its set bits in order. -/
theorem Drawing.rows_eq_plots (d : Drawing) (cx cy : Byte) (k : Nat) (bs : List Byte) :
    d.rows cx cy k bs = d.plots (spritePlots cx cy k bs) := by
  induction bs generalizing d k with
  | nil => rfl
  | cons b bs ih => rw [Drawing.rows, ih, Drawing.row_eq_plots, spritePlots, Drawing.plots_append]

theorem drawSprite_eq_plots (g : Grid) (cx cy : Byte) (bs : List Byte) :
    drawSprite g cx cy bs = (⟨g, [], false⟩ : Drawing).plots (spritePlots cx cy 0 bs) :=
  Drawing.rows_eq_plots _ _ _ _ _

/-! One toggle. -/

@[simp] theorem Drawing.toggle_disp_self (d : Drawing) (r : Fin 32) (c : Fin 64) :
    (d.toggle r c).disp[r][c] = !d.disp[r][c] := by
  simp [Drawing.toggle]

theorem Drawing.toggle_disp_ne (d : Drawing) {r r' : Fin 32} {c c' : Fin 64} (h : (r', c') ≠ (r, c)) :
    (d.toggle r c).disp[r'][c'] = d.disp[r'][c'] := by
  by_cases hr : r = r'
  · subst hr
    have hc : ¬ c.val = c'.val := fun e => h (by rw [Fin.ext e])
    simp [Drawing.toggle, hc]
  · have hr' : ¬ r.val = r'.val := fun e => hr (Fin.ext e)
    simp [Drawing.toggle, hr']

/-! Many toggles of positions that are all different. -/

theorem Drawing.plots_disp_of_notMem (d : Drawing) (ps : List (Fin 32 × Fin 64)) {r : Fin 32} {c : Fin 64}
    (h : (r, c) ∉ ps) : (d.plots ps).disp[r][c] = d.disp[r][c] := by
  induction ps generalizing d with
  | nil => rfl
  | cons p ps ih =>
    simp only [List.mem_cons, not_or] at h
    rw [Drawing.plots_cons, ih _ h.2, Drawing.toggle_disp_ne _ (by simpa using h.1)]

theorem Drawing.plots_disp_of_mem (d : Drawing) {ps : List (Fin 32 × Fin 64)} (hn : ps.Nodup) {r : Fin 32} {c : Fin 64}
    (h : (r, c) ∈ ps) : (d.plots ps).disp[r][c] = !d.disp[r][c] := by
  induction ps generalizing d with
  | nil => simp at h
  | cons p ps ih =>
    obtain ⟨hp, hn⟩ := List.nodup_cons.mp hn
    rw [Drawing.plots_cons]
    rcases List.mem_cons.mp h with rfl | h
    · rw [Drawing.plots_disp_of_notMem _ _ hp, Drawing.toggle_disp_self]
    · have hne : (r, c) ≠ p := fun e => hp (e ▸ h)
      rw [ih _ hn h, Drawing.toggle_disp_ne _ hne]

/-- The change list grows by one entry for each position, with the negation of the pixel's value before the draw. -/
theorem Drawing.plots_changes (d : Drawing) {ps : List (Fin 32 × Fin 64)} (hn : ps.Nodup) :
    (d.plots ps).changes = d.changes ++ ps.map fun p => ⟨p.1, p.2, !d.disp[p.1][p.2]⟩ := by
  induction ps generalizing d with
  | nil => simp
  | cons p ps ih =>
    obtain ⟨hp, hn⟩ := List.nodup_cons.mp hn
    have e : (ps.map fun q => (⟨q.1, q.2, !(d.toggle p.1 p.2).disp[q.1][q.2]⟩ : PixelChange)) =
        ps.map fun q => ⟨q.1, q.2, !d.disp[q.1][q.2]⟩ := by
      refine List.map_congr_left fun q hq => ?_
      have hne : (q.1, q.2) ≠ (p.1, p.2) := fun e => hp (by rwa [← Prod.mk.eta (p := q), e] at hq)
      rw [Drawing.toggle_disp_ne _ hne]
    rw [Drawing.plots_cons, ih _ hn, e]
    simp [Drawing.toggle]

/-- A collision is a position whose pixel was on before the draw (R171: the flag is sticky). -/
theorem Drawing.plots_collide (d : Drawing) {ps : List (Fin 32 × Fin 64)} (hn : ps.Nodup) :
    (d.plots ps).collide = (d.collide || ps.any fun p => d.disp[p.1][p.2]) := by
  induction ps generalizing d with
  | nil => simp
  | cons p ps ih =>
    obtain ⟨hp, hn⟩ := List.nodup_cons.mp hn
    have e : (ps.any fun q => (d.toggle p.1 p.2).disp[q.1][q.2]) = ps.any fun q => d.disp[q.1][q.2] := by
      rw [Bool.eq_iff_iff, List.any_eq_true, List.any_eq_true]
      refine exists_congr fun q => and_congr_right fun hq => ?_
      have hne : (q.1, q.2) ≠ (p.1, p.2) := fun e => hp (by rwa [← Prod.mk.eta (p := q), e] at hq)
      rw [Drawing.toggle_disp_ne _ hne]
    rw [Drawing.plots_cons, ih _ hn, e]
    simp [Drawing.toggle, Bool.or_assoc]

/-! Which positions, and that none stands twice: 8 columns on 64, at most 32 rows on 32 (R173). -/

theorem mem_spritePlots {cx cy : Byte} {k : Nat} {bs : List Byte} {p : Fin 32 × Fin 64} :
    p ∈ spritePlots cx cy k bs ↔
      ∃ (m : Nat) (h : m < bs.length) (j : Nat), j < 8 ∧ spriteBit bs[m] j = true ∧
        p = (spriteRow cy (k + m), spriteCol cx j) := by
  induction bs generalizing k with
  | nil => simp [spritePlots]
  | cons b bs ih =>
    simp only [spritePlots, List.mem_append, List.mem_map, List.mem_filter, List.mem_range, ih]
    constructor
    · rintro (⟨j, ⟨hj, hb⟩, rfl⟩ | ⟨m, hm, j, hj, hb, rfl⟩)
      · exact ⟨0, by simp, j, hj, by simpa using hb, by simp⟩
      · exact ⟨m + 1, by simpa using hm, j, hj, by simpa using hb, by rw [Nat.add_assoc, Nat.add_comm 1]⟩
    · rintro ⟨m, hm, j, hj, hb, rfl⟩
      cases m with
      | zero => exact .inl ⟨j, ⟨hj, by simpa using hb⟩, by simp⟩
      | succ m => exact .inr ⟨m, by simpa using hm, j, hj, by simpa using hb, by rw [Nat.add_assoc, Nat.add_comm 1]⟩

theorem spritePlots_nodup (cx cy : Byte) (k : Nat) (bs : List Byte) (h : bs.length ≤ 32) :
    (spritePlots cx cy k bs).Nodup := by
  induction bs generalizing k with
  | nil => simp [spritePlots]
  | cons b bs ih =>
    simp only [List.length_cons] at h
    refine List.nodup_append.mpr ⟨?_, ih _ (by omega), ?_⟩
    · refine (List.nodup_map_iff_inj_on (List.nodup_range.filter _)).mpr fun i hi j hj e => ?_
      simp only [List.mem_filter, List.mem_range] at hi hj
      have := congrArg (fun p => p.2.val) e
      simp only [spriteCol_val] at this
      omega
    · rintro p hp q hq rfl
      obtain ⟨j, -, rfl⟩ := List.mem_map.mp hp
      obtain ⟨m, hm, j', -, -, e⟩ := mem_spritePlots.mp hq
      have := congrArg (fun p => p.1.val) e
      simp only [spriteRow_val] at this
      omega

end Sys2Proof.Machine
end

