-- ==== Sys2Proof/Laws/Step.lean ====
section
/-! SUPPORT. Laws/Step.lean: what the fetch and the step can do, once. -/

namespace Sys2Proof.Machine

theorem step_of_faulted {s : State} {r : FaultRecord} (h : s.status = .faulted r) : step s = .fault (.coreFaulted r) := by
  simp [step, h]

theorem step_of_fetch_error {s : State} {c : FaultCause} (h : s.status = .running) (hf : s.fetchInstr = .error c) :
    step s = .next (s.takeFault c) := by
  simp [step, h, hf]

theorem step_of_fetch_ok {s : State} {i : Instr} (h : s.status = .running) (hf : s.fetchInstr = .ok i) :
    step s = exec i s := by
  simp [step, h, hf]

/-- All that the fetch and the dispatch can do, in the order of R216. -/
theorem State.fetchInstr_cases (s : State) :
    (0xFFF < s.pc.toNat + 1 ∧ s.fetchInstr = .error .fetchOutOfRange) ∨
    (s.pc.toNat + 1 ≤ 0xFFF ∧ (∀ i, decodeWord s.wordAtPc ≠ .ok i) ∧
      s.fetchInstr = .error (.unsupportedOpcode s.wordAtPc)) ∨
    (s.pc.toNat + 1 ≤ 0xFFF ∧ ∃ i, decodeWord s.wordAtPc = .ok i ∧ s.fetchInstr = .ok i) := by
  by_cases hp : s.pc.toNat + 1 > 0xFFF
  · exact .inl ⟨hp, by simp [State.fetchInstr, State.fetchBytes, hp]⟩
  · right
    cases hd : decodeWord s.wordAtPc with
    | error e =>
      refine .inl ⟨by omega, by simp, ?_⟩
      have hd' := hd
      rw [State.wordAtPc] at hd'
      simp [State.fetchInstr, State.fetchBytes, hp, decodeBytes, hd']
    | ok i =>
      refine .inr ⟨by omega, i, rfl, ?_⟩
      rw [State.wordAtPc] at hd
      simp [State.fetchInstr, State.fetchBytes, hp, decodeBytes, hd]

/-- All that a step that answers a next state can have done. -/
theorem step_cases {s t : State} (h : step s = .next t) :
    s.status = .running ∧
      ((∃ c, s.fetchInstr = .error c ∧ t = s.takeFault c) ∨ (∃ i, s.fetchInstr = .ok i ∧ exec i s = .next t)) := by
  cases hs : s.status with
  | faulted r => rw [step_of_faulted hs] at h; cases h
  | running =>
    refine ⟨rfl, ?_⟩
    cases hf : s.fetchInstr with
    | error c =>
      rw [step_of_fetch_error hs hf] at h
      exact .inl ⟨c, rfl, by simpa using h.symm⟩
    | ok i =>
      rw [step_of_fetch_ok hs hf] at h
      exact .inr ⟨i, rfl, h⟩

end Sys2Proof.Machine
end

