-- ==== Sys2Proof/Laws/Exec.lean ====
section
/-! SUPPORT. Laws/Exec.lean: the inversion of exec: an instruction either takes one of its own faults or has its effect. -/

namespace Sys2Proof.Machine

/-- The state an instruction leaves when it completes. -/
def effect (i : Instr) (s : State) : State :=
  let t := s.enterExecute
  match i with
  | .sys _ => t
  | .cls => t.present blankGrid (clearedPixels s.disp)
  | .ret => (t.setStack s.stack.dropLast).setPc (s.stack.getLast?.getD 0)
  | .jp nnn => t.setPc (zext12 nnn)
  | .call nnn => (t.push t.pc).setPc (zext12 nnn)
  | .seVxKk x kk => t.skipIf (s.readV x == kk)
  | .sneVxKk x kk => t.skipIf (s.readV x != kk)
  | .seVxVy x y => t.skipIf (s.readV x == s.readV y)
  | .ldVxKk x kk => t.setV x kk
  | .addVxKk x kk => t.setV x (s.readV x + kk)
  | .ldVxVy x y => t.setV x (s.readV y)
  | .orVxVy x y => t.setV x (s.readV x ||| s.readV y)
  | .andVxVy x y => t.setV x (s.readV x &&& s.readV y)
  | .xorVxVy x y => t.setV x (s.readV x ^^^ s.readV y)
  | .addVxVy x y => t.setFlagThenV x (carryOut (s.readV x) (s.readV y)) (s.readV x + s.readV y)
  | .subVxVy x y => t.setFlagThenV x (strictlyAbove (s.readV x) (s.readV y)) (s.readV x - s.readV y)
  | .shrVx x => t.setFlagThenV x (lowBit (s.readV x)) (s.readV x >>> 1)
  | .subnVxVy x y => t.setFlagThenV x (strictlyAbove (s.readV y) (s.readV x)) (s.readV y - s.readV x)
  | .shlVx x => t.setFlagThenV x (highBit (s.readV x)) (s.readV x <<< 1)
  | .sneVxVy x y => t.skipIf (s.readV x != s.readV y)
  | .ldINnn nnn => t.setI (zext12 nnn)
  | .jpV0Nnn nnn => t.setPc (zext12 nnn + zext8 (s.readV 0))
  | .rndVxKk x kk => t.drawRand.setV x (s.nextRand &&& kk)
  | .drwVxVyN x y n =>
    (t.present (s.spriteDrawing x y n).disp (s.spriteDrawing x y n).changes).setV VF
      (bool01 (s.spriteDrawing x y n).collide)
  | .skpVx x => t.skipIf (s.keyDown (keyIndex (s.readV x)))
  | .sknpVx x => t.skipIf (!s.keyDown (keyIndex (s.readV x)))
  | .ldVxDt x => t.setV x s.dt
  | .ldVxK x =>
    match s.releasedKey with
    | none => t.setPc (t.pc - 2#16)
    | some k => t.setV x (BitVec.ofNat 8 k.val)
  | .ldDtVx x => t.setDt (s.readV x)
  | .ldStVx x => t.setSt (s.readV x)
  | .addIVx x => t.setI (s.i + zext8 (s.readV x))
  | .ldFVx x => t.setI (glyphAddr (s.readV x))
  | .ldBVx x => t.storeBytes (s.atI 0) (bcdDigits (s.readV x))
  | .ldMemVx x => t.storeBytes (s.atI 0) (s.regsUpTo x)
  | .ldVxMem x => t.setAllV (s.loadedRegs x)

/-- Why an instruction does not complete: the fault it takes in a state, if it takes one. -/
def ownFault (i : Instr) (s : State) : Option FaultCause :=
  match i with
  | .sys nnn => if s.params.sysMode = .fault then some (.unsupportedOpcode (encode (.sys nnn))) else none
  | .call nnn => if s.depth ≥ Config.stackDepth then some (.stackOverflow nnn) else none
  | .ret => if s.stack = [] then some .stackUnderflow else none
  | .ldBVx _ => s.checkWrite (s.atI 0) (s.atI 2)
  | .ldMemVx x => s.checkWrite (s.atI 0) (s.atI x.val)
  | .ldVxMem x => checkRead (s.atI 0) (s.atI x.val)
  | .drwVxVyN _ _ n => s.checkSprite n
  | _ => none

/-- exec is its own fault check, then the effect. -/
theorem exec_eq (i : Instr) (s : State) : exec i s = checked (ownFault i s) s (effect i s) := by
  cases i
  case sys nnn => cases h : s.params.sysMode <;> simp [exec, execSys, ownFault, effect, h]
  case ret =>
    cases h : s.stack.getLast? with
    | none =>
      have h' := List.getLast?_eq_none_iff.mp h
      simp [exec, execRet, ownFault, h']
    | some top =>
      have h' : s.stack ≠ [] := fun e => by simp [e] at h
      simp [exec, execRet, ownFault, effect, h, h']
  case ldVxK x => cases h : s.releasedKey <;> simp [exec, execLdVxK, ownFault, effect, h]
  all_goals rfl

/-- All that an instruction can answer. -/
theorem exec_cases {i : Instr} {s t : State} (h : exec i s = .next t) :
    (∃ c, ownFault i s = some c ∧ t = s.takeFault c) ∨ (ownFault i s = none ∧ t = effect i s) :=
  checked_cases (exec_eq i s ▸ h)

/-- An instruction's own fault is of a kind the table gives it (R210, R216). -/
theorem ownFault_code {i : Instr} {s : State} {c : FaultCause} (h : ownFault i s = some c) :
    faultCode c ∈ ownFaultCodes i := by
  cases i <;> simp only [ownFault, reduceCtorEq] at h
  case sys => split at h <;> cases h; simp [faultCode, ownFaultCodes]
  case call => split at h <;> cases h; simp [faultCode, ownFaultCodes]
  case ret => split at h <;> cases h; simp [faultCode, ownFaultCodes]
  case ldBVx => rw [(State.checkWrite_eq_some.mp h).2]; simp [faultCode, ownFaultCodes]
  case ldMemVx => rw [(State.checkWrite_eq_some.mp h).2]; simp [faultCode, ownFaultCodes]
  case ldVxMem => rw [(checkRead_eq_some.mp h).2]; simp [faultCode, ownFaultCodes]
  case drwVxVyN => rw [(State.checkSprite_eq_some.mp h).2]; simp [faultCode, ownFaultCodes]

end Sys2Proof.Machine
end

