-- ==== Sys2Proof/Laws/PerInstr.lean ====
section
/-! SUPPORT. Laws/PerInstr.lean: per instruction, that its canonical word carries the keys of its row of the opcode map
(30_encoding.md R75-R80). -/

namespace Sys2Proof.Laws.OpcodeRow

/-- The top nibble of an instruction's row (R75, R80). -/
def opcodeId : Instr → BitVec 4
  | .sys _ => 0x0#4
  | .cls => 0x0#4
  | .ret => 0x0#4
  | .jp _ => 0x1#4
  | .call _ => 0x2#4
  | .seVxKk _ _ => 0x3#4
  | .sneVxKk _ _ => 0x4#4
  | .seVxVy _ _ => 0x5#4
  | .ldVxKk _ _ => 0x6#4
  | .addVxKk _ _ => 0x7#4
  | .ldVxVy _ _ => 0x8#4
  | .orVxVy _ _ => 0x8#4
  | .andVxVy _ _ => 0x8#4
  | .xorVxVy _ _ => 0x8#4
  | .addVxVy _ _ => 0x8#4
  | .subVxVy _ _ => 0x8#4
  | .shrVx _ => 0x8#4
  | .subnVxVy _ _ => 0x8#4
  | .shlVx _ => 0x8#4
  | .sneVxVy _ _ => 0x9#4
  | .ldINnn _ => 0xA#4
  | .jpV0Nnn _ => 0xB#4
  | .rndVxKk _ _ => 0xC#4
  | .drwVxVyN _ _ _ => 0xD#4
  | .skpVx _ => 0xE#4
  | .sknpVx _ => 0xE#4
  | .ldVxDt _ => 0xF#4
  | .ldVxK _ => 0xF#4
  | .ldDtVx _ => 0xF#4
  | .ldStVx _ => 0xF#4
  | .addIVx _ => 0xF#4
  | .ldFVx _ => 0xF#4
  | .ldBVx _ => 0xF#4
  | .ldMemVx _ => 0xF#4
  | .ldVxMem _ => 0xF#4

/-- The low byte of an instruction's row where the row is keyed by it (R76, R78, R79). -/
def keyKk : Instr → Option Byte
  | .sys _ => none
  | .cls => some 0xE0#8
  | .ret => some 0xEE#8
  | .jp _ => none
  | .call _ => none
  | .seVxKk _ _ => none
  | .sneVxKk _ _ => none
  | .seVxVy _ _ => none
  | .ldVxKk _ _ => none
  | .addVxKk _ _ => none
  | .ldVxVy _ _ => none
  | .orVxVy _ _ => none
  | .andVxVy _ _ => none
  | .xorVxVy _ _ => none
  | .addVxVy _ _ => none
  | .subVxVy _ _ => none
  | .shrVx _ => none
  | .subnVxVy _ _ => none
  | .shlVx _ => none
  | .sneVxVy _ _ => none
  | .ldINnn _ => none
  | .jpV0Nnn _ => none
  | .rndVxKk _ _ => none
  | .drwVxVyN _ _ _ => none
  | .skpVx _ => some 0x9E#8
  | .sknpVx _ => some 0xA1#8
  | .ldVxDt _ => some 0x07#8
  | .ldVxK _ => some 0x0A#8
  | .ldDtVx _ => some 0x15#8
  | .ldStVx _ => some 0x18#8
  | .addIVx _ => some 0x1E#8
  | .ldFVx _ => some 0x29#8
  | .ldBVx _ => some 0x33#8
  | .ldMemVx _ => some 0x55#8
  | .ldVxMem _ => some 0x65#8

/-- The low nibble of an instruction's row where the row is keyed by it (R77). -/
def keyN : Instr → Option Count
  | .sys _ => none
  | .cls => none
  | .ret => none
  | .jp _ => none
  | .call _ => none
  | .seVxKk _ _ => none
  | .sneVxKk _ _ => none
  | .seVxVy _ _ => none
  | .ldVxKk _ _ => none
  | .addVxKk _ _ => none
  | .ldVxVy _ _ => some 0x0
  | .orVxVy _ _ => some 0x1
  | .andVxVy _ _ => some 0x2
  | .xorVxVy _ _ => some 0x3
  | .addVxVy _ _ => some 0x4
  | .subVxVy _ _ => some 0x5
  | .shrVx _ => some 0x6
  | .subnVxVy _ _ => some 0x7
  | .shlVx _ => some 0xE
  | .sneVxVy _ _ => none
  | .ldINnn _ => none
  | .jpV0Nnn _ => none
  | .rndVxKk _ _ => none
  | .drwVxVyN _ _ _ => none
  | .skpVx _ => none
  | .sknpVx _ => none
  | .ldVxDt _ => none
  | .ldVxK _ => none
  | .ldDtVx _ => none
  | .ldStVx _ => none
  | .addIVx _ => none
  | .ldFVx _ => none
  | .ldBVx _ => none
  | .ldMemVx _ => none
  | .ldVxMem _ => none

/-- The encoded word of an instruction has the keys of its row. -/
def Statement (i : Instr) : Prop :=
  fieldOp (encode i) = opcodeId i ∧ (∀ k, keyKk i = some k → fieldKk (encode i) = k) ∧
    (∀ k, keyN i = some k → fieldN (encode i) = k)

theorem sys (nnn : Addr) : Statement (.sys nnn) := by
  simp [Statement, encode, opcodeId, keyKk, keyN]

theorem cls : Statement .cls := by
  refine ⟨by decide, fun k h => ?_, fun k h => ?_⟩ <;> cases h
  decide

theorem ret : Statement .ret := by
  refine ⟨by decide, fun k h => ?_, fun k h => ?_⟩ <;> cases h
  decide

theorem jp (nnn : Addr) : Statement (.jp nnn) := by
  simp [Statement, encode, opcodeId, keyKk, keyN]

theorem call (nnn : Addr) : Statement (.call nnn) := by
  simp [Statement, encode, opcodeId, keyKk, keyN]

theorem seVxKk (x : RegNum) (kk : Byte) : Statement (.seVxKk x kk) := by
  simp [Statement, encode, opcodeId, keyKk, keyN]

theorem sneVxKk (x : RegNum) (kk : Byte) : Statement (.sneVxKk x kk) := by
  simp [Statement, encode, opcodeId, keyKk, keyN]

theorem seVxVy (x y : RegNum) : Statement (.seVxVy x y) := by
  simp [Statement, encode, opcodeId, keyKk, keyN]

theorem ldVxKk (x : RegNum) (kk : Byte) : Statement (.ldVxKk x kk) := by
  simp [Statement, encode, opcodeId, keyKk, keyN]

theorem addVxKk (x : RegNum) (kk : Byte) : Statement (.addVxKk x kk) := by
  simp [Statement, encode, opcodeId, keyKk, keyN]

theorem ldVxVy (x y : RegNum) : Statement (.ldVxVy x y) := by
  simp [Statement, encode, opcodeId, keyKk, keyN, regOfBits]

theorem orVxVy (x y : RegNum) : Statement (.orVxVy x y) := by
  simp [Statement, encode, opcodeId, keyKk, keyN, regOfBits]

theorem andVxVy (x y : RegNum) : Statement (.andVxVy x y) := by
  simp [Statement, encode, opcodeId, keyKk, keyN, regOfBits]

theorem xorVxVy (x y : RegNum) : Statement (.xorVxVy x y) := by
  simp [Statement, encode, opcodeId, keyKk, keyN, regOfBits]

theorem addVxVy (x y : RegNum) : Statement (.addVxVy x y) := by
  simp [Statement, encode, opcodeId, keyKk, keyN, regOfBits]

theorem subVxVy (x y : RegNum) : Statement (.subVxVy x y) := by
  simp [Statement, encode, opcodeId, keyKk, keyN, regOfBits]

theorem shrVx (x : RegNum) : Statement (.shrVx x) := by
  simp [Statement, encode, opcodeId, keyKk, keyN, regOfBits]

theorem subnVxVy (x y : RegNum) : Statement (.subnVxVy x y) := by
  simp [Statement, encode, opcodeId, keyKk, keyN, regOfBits]

theorem shlVx (x : RegNum) : Statement (.shlVx x) := by
  simp [Statement, encode, opcodeId, keyKk, keyN, regOfBits]

theorem sneVxVy (x y : RegNum) : Statement (.sneVxVy x y) := by
  simp [Statement, encode, opcodeId, keyKk, keyN]

theorem ldINnn (nnn : Addr) : Statement (.ldINnn nnn) := by
  simp [Statement, encode, opcodeId, keyKk, keyN]

theorem jpV0Nnn (nnn : Addr) : Statement (.jpV0Nnn nnn) := by
  simp [Statement, encode, opcodeId, keyKk, keyN]

theorem rndVxKk (x : RegNum) (kk : Byte) : Statement (.rndVxKk x kk) := by
  simp [Statement, encode, opcodeId, keyKk, keyN]

theorem drwVxVyN (x y : RegNum) (n : Count) : Statement (.drwVxVyN x y n) := by
  simp [Statement, encode, opcodeId, keyKk, keyN]

theorem skpVx (x : RegNum) : Statement (.skpVx x) := by
  simp [Statement, encode, opcodeId, keyKk, keyN]

theorem sknpVx (x : RegNum) : Statement (.sknpVx x) := by
  simp [Statement, encode, opcodeId, keyKk, keyN]

theorem ldVxDt (x : RegNum) : Statement (.ldVxDt x) := by
  simp [Statement, encode, opcodeId, keyKk, keyN]

theorem ldVxK (x : RegNum) : Statement (.ldVxK x) := by
  simp [Statement, encode, opcodeId, keyKk, keyN]

theorem ldDtVx (x : RegNum) : Statement (.ldDtVx x) := by
  simp [Statement, encode, opcodeId, keyKk, keyN]

theorem ldStVx (x : RegNum) : Statement (.ldStVx x) := by
  simp [Statement, encode, opcodeId, keyKk, keyN]

theorem addIVx (x : RegNum) : Statement (.addIVx x) := by
  simp [Statement, encode, opcodeId, keyKk, keyN]

theorem ldFVx (x : RegNum) : Statement (.ldFVx x) := by
  simp [Statement, encode, opcodeId, keyKk, keyN]

theorem ldBVx (x : RegNum) : Statement (.ldBVx x) := by
  simp [Statement, encode, opcodeId, keyKk, keyN]

theorem ldMemVx (x : RegNum) : Statement (.ldMemVx x) := by
  simp [Statement, encode, opcodeId, keyKk, keyN]

theorem ldVxMem (x : RegNum) : Statement (.ldVxMem x) := by
  simp [Statement, encode, opcodeId, keyKk, keyN]

end Sys2Proof.Laws.OpcodeRow
end

