-- ==== Sys2Proof/Tests/Slice0.lean ====
section
/-! SUPPORT. Tests/Slice0.lean: small tests whose expected results are from 95_test_vectors.md or worked by hand from the
encodings and rules, and a witness for the hypotheses of each statement. -/

namespace Sys2Proof.Tests

open Sys2Proof.Machine

/-! ## WellFormed: each check refuses an ill-formed term (R76, R80 row 1) -/

theorem test_wellFormed_sys_e0_refused : (Instr.sys 0x1E0#12).wellFormed = false := by decide
theorem test_wellFormed_sys_ee_refused : (Instr.sys 0x0EE#12).wellFormed = false := by decide
theorem test_wellFormed_sys_other : (Instr.sys 0x0E1#12).wellFormed = true := by decide

/-! ## Decoding: one word for every constructor, written out bit by bit from its pattern in R80 -/

theorem test_decode_sys : decodeWord 0b0000_0010_0011_0100#16 = .ok (.sys 0x234#12) := by decide
theorem test_decode_cls : decodeWord 0b0000_0001_1110_0000#16 = .ok .cls := by decide
theorem test_decode_ret : decodeWord 0b0000_1111_1110_1110#16 = .ok .ret := by decide
theorem test_decode_jp : decodeWord 0b0001_0010_0000_0010#16 = .ok (.jp 0x202#12) := by decide
theorem test_decode_call : decodeWord 0b0010_0011_0000_0001#16 = .ok (.call 0x301#12) := by decide
theorem test_decode_seVxKk : decodeWord 0b0011_0100_0001_0000#16 = .ok (.seVxKk 4 0x10#8) := by decide
theorem test_decode_sneVxKk : decodeWord 0b0100_0100_0001_0001#16 = .ok (.sneVxKk 4 0x11#8) := by decide
theorem test_decode_seVxVy : decodeWord 0b0101_0001_0010_0111#16 = .ok (.seVxVy 1 2) := by decide
theorem test_decode_ldVxKk : decodeWord 0b0110_1010_0111_1011#16 = .ok (.ldVxKk 10 0x7B#8) := by decide
theorem test_decode_addVxKk : decodeWord 0b0111_0011_0000_0010#16 = .ok (.addVxKk 3 0x02#8) := by decide
theorem test_decode_ldVxVy : decodeWord 0b1000_0010_0001_0000#16 = .ok (.ldVxVy 2 1) := by decide
theorem test_decode_orVxVy : decodeWord 0b1000_0010_0001_0001#16 = .ok (.orVxVy 2 1) := by decide
theorem test_decode_andVxVy : decodeWord 0b1000_0010_0001_0010#16 = .ok (.andVxVy 2 1) := by decide
theorem test_decode_xorVxVy : decodeWord 0b1000_0010_0001_0011#16 = .ok (.xorVxVy 2 1) := by decide
theorem test_decode_addVxVy : decodeWord 0b1000_0010_0001_0100#16 = .ok (.addVxVy 2 1) := by decide
theorem test_decode_subVxVy : decodeWord 0b1000_0010_0001_0101#16 = .ok (.subVxVy 2 1) := by decide
theorem test_decode_shrVx : decodeWord 0b1000_0001_0010_0110#16 = .ok (.shrVx 1) := by decide
theorem test_decode_subnVxVy : decodeWord 0b1000_0010_0001_0111#16 = .ok (.subnVxVy 2 1) := by decide
theorem test_decode_shlVx : decodeWord 0b1000_0001_0010_1110#16 = .ok (.shlVx 1) := by decide
theorem test_decode_sneVxVy : decodeWord 0b1001_1010_1011_0011#16 = .ok (.sneVxVy 10 11) := by decide
theorem test_decode_ldINnn : decodeWord 0b1010_0010_1111_0000#16 = .ok (.ldINnn 0x2F0#12) := by decide
theorem test_decode_jpV0Nnn : decodeWord 0b1011_0101_0000_0000#16 = .ok (.jpV0Nnn 0x500#12) := by decide
theorem test_decode_rndVxKk : decodeWord 0b1100_0011_0000_1111#16 = .ok (.rndVxKk 3 0x0F#8) := by decide
theorem test_decode_drwVxVyN : decodeWord 0b1101_0001_0010_0011#16 = .ok (.drwVxVyN 1 2 3) := by decide
theorem test_decode_skpVx : decodeWord 0b1110_0010_1001_1110#16 = .ok (.skpVx 2) := by decide
theorem test_decode_sknpVx : decodeWord 0b1110_0010_1010_0001#16 = .ok (.sknpVx 2) := by decide
theorem test_decode_ldVxDt : decodeWord 0b1111_0100_0000_0111#16 = .ok (.ldVxDt 4) := by decide
theorem test_decode_ldVxK : decodeWord 0b1111_0011_0000_1010#16 = .ok (.ldVxK 3) := by decide
theorem test_decode_ldDtVx : decodeWord 0b1111_0100_0001_0101#16 = .ok (.ldDtVx 4) := by decide
theorem test_decode_ldStVx : decodeWord 0b1111_0100_0001_1000#16 = .ok (.ldStVx 4) := by decide
theorem test_decode_addIVx : decodeWord 0b1111_0101_0001_1110#16 = .ok (.addIVx 5) := by decide
theorem test_decode_ldFVx : decodeWord 0b1111_0000_0010_1001#16 = .ok (.ldFVx 0) := by decide
theorem test_decode_ldBVx : decodeWord 0b1111_0111_0011_0011#16 = .ok (.ldBVx 7) := by decide
theorem test_decode_ldMemVx : decodeWord 0b1111_0010_0101_0101#16 = .ok (.ldMemVx 2) := by decide
theorem test_decode_ldVxMem : decodeWord 0b1111_0010_0110_0101#16 = .ok (.ldVxMem 2) := by decide
theorem test_decode_noRow : [0x8128#16, 0x812F#16, 0xE000#16, 0xE2A0#16, 0xF230#16, 0xFFFF#16].all
    (fun w => (decodeWord w).toOption.isNone) = true := by decide
theorem test_decode_too_short : decodeBytes [0x12#8] = .error .tooShort := by decide
theorem test_decode_rest : decodeBytes [0x12#8, 0x02#8, 0x33#8] = .ok (.jp 0x202#12, [0x33#8]) := by decide
theorem test_decodeTableWord : decodeTableWord 16 0x1202 = some (.jp 0x202#12) := by decide

/-! ## The spellings of R83 -/

theorem test_assemble_jp : assemble "JP 0x202".toList = some 0x1202#16 := by decide
theorem test_assemble_decimal : assemble "LD V0,5".toList = some 0x6005#16 := by decide
theorem test_assemble_glyph : assemble "LD F,V0".toList = some 0xF029#16 := by decide
theorem test_assemble_canonical : assemble "SHR V1".toList = some 0x8106#16 := by decide
theorem test_assemble_y_encoded : assemble "SHR V1,V2".toList = some 0x8126#16 := by decide
theorem test_assemble_store : assemble "LD [I],VA".toList = some 0xFA55#16 := by decide
theorem test_assemble_does_not_fit : assemble "LD V0,256".toList = none := by decide
theorem test_assemble_only_v0 : assemble "JP V1,0x300".toList = none := by decide

/-! ## A small state, and the state an instruction leaves -/

/-- The reset state with PC, V0, V1 and I given. -/
def st (pc : Word) (v0 v1 : Byte) (i : Word) : State := { (State.reset.setV 0 v0).setV 1 v1 with pc := pc, i := i }

/-- The next state of a result. -/
def after : Result → State
  | .next t => t
  | _ => State.reset

/-- The cause a result's state is FAULTED with. -/
def faultOf (r : Result) : Option FaultRecord :=
  match (after r).status with
  | .faulted f => some f
  | .running => none

/-! ## Register and arithmetic (vectors V20 to V47) -/

theorem test_ldVxKk_vf : (after (exec (.ldVxKk 15 0xFF#8) (st 0x200 0 0 0))).readV 15 = 0xFF#8 := by decide
theorem test_addVxKk_wraps : let t := after (exec (.addVxKk 0 0x02#8) ((st 0x200 0xFF 0 0).setV 15 0))
    (t.readV 0, t.readV 15, t.pc) = (0x01#8, 0x00#8, 0x202#16) := by decide
theorem test_ldVxVy : let t := after (exec (.ldVxVy 0 1) ((st 0x200 0 0x42 0).setV 15 1))
    (t.readV 0, t.readV 1, t.readV 15) = (0x42#8, 0x42#8, 1#8) := by decide
theorem test_orVxVy : let t := after (exec (.orVxVy 0 1) ((st 0x200 0x0F 0xF0 0).setV 15 1))
    (t.readV 0, t.readV 15) = (0xFF#8, 1#8) := by decide
theorem test_andVxVy : (after (exec (.andVxVy 0 1) (st 0x200 0x3C 0x0F 0))).readV 0 = 0x0C#8 := by decide
theorem test_xorVxVy : (after (exec (.xorVxVy 0 1) (st 0x200 0xFF 0x0F 0))).readV 0 = 0xF0#8 := by decide
theorem test_addVxVy_carry : let t := after (exec (.addVxVy 0 1) (st 0x200 0xC8 0x64 0))
    (t.readV 0, t.readV 15) = (0x2C#8, 1#8) := by decide
theorem test_addVxVy_result_wins : (after (exec (.addVxVy 15 1) ((st 0x200 0 0x64 0).setV 15 0xC8))).readV 15 = 0x2C#8 := by
  decide
theorem test_subVxVy_equal : let t := after (exec (.subVxVy 0 1) ((st 0x200 5 5 0).setV 15 1))
    (t.readV 0, t.readV 15) = (0#8, 0#8) := by decide
theorem test_subVxVy_wraps : let t := after (exec (.subVxVy 0 1) (st 0x200 0x05 0x0A 0))
    (t.readV 0, t.readV 15) = (0xFB#8, 0#8) := by decide
theorem test_shrVx : let t := after (exec (.shrVx 0) (st 0x200 0x05 0x99 0))
    (t.readV 0, t.readV 1, t.readV 15) = (0x02#8, 0x99#8, 1#8) := by decide
theorem test_shrVx_vf : (after (exec (.shrVx 15) ((st 0x200 0 0 0).setV 15 0x05))).readV 15 = 0x02#8 := by decide
theorem test_subnVxVy : let t := after (exec (.subnVxVy 0 1) (st 0x200 0x03 0x0A 0))
    (t.readV 0, t.readV 15) = (0x07#8, 1#8) := by decide
theorem test_subnVxVy_old_vf : let t := after (exec (.subnVxVy 0 15) ((st 0x200 0x10 0 0).setV 15 0x30))
    (t.readV 0, t.readV 15) = (0x20#8, 1#8) := by decide
theorem test_shlVx : let t := after (exec (.shlVx 0) (st 0x200 0x81 0 0))
    (t.readV 0, t.readV 15) = (0x02#8, 1#8) := by decide
theorem test_shlVx_vf : (after (exec (.shlVx 15) ((st 0x200 0 0 0).setV 15 0x40))).readV 15 = 0x80#8 := by decide
theorem test_rndVxKk_zero_mask : (after (exec (.rndVxKk 0 0x00#8) (st 0x200 9 0 0))).readV 0 = 0#8 := by
  simp [after, exec, execRndVxKk]
theorem test_rndVxKk_full_mask : let t := after (exec (.rndVxKk 15 0xFF#8) (st 0x200 9 0 0))
    t.readV 15 = t.lastRand := by
  show _ &&& 0xFF#8 = _
  exact BitVec.and_allOnes

/-! ## Control flow (vectors V11, V50 to V68) -/

theorem test_sys_fault : faultOf (exec (.sys 0x234#12) (st 0x300 0 0 0)) =
    some ⟨.unsupportedOpcode 0x0234#16, 0x300#16⟩ := by decide
theorem test_sys_nop : let s := st 0x300 7 0 0
    let t := after (exec (.sys 0x234#12) { s with params := { s.params with sysMode := .nop } })
    (t.pc, t.readV 0, t.status) = (0x302#16, 7#8, .running) := by decide
theorem test_jp_odd : (after (exec (.jp 0x201#12) (st 0x200 0 0 0))).pc = 0x201#16 := by decide
theorem test_call_wraps : let t := after (exec (.call 0x300#12) (st 0xFFE 0 0 0))
    (t.stack, t.pc) = ([0x000#16], 0x300#16) := by decide
theorem test_call_overflow : let s := { st 0x300 0 0 0 with stack := List.replicate 16 0x202#16 }
    (faultOf (exec (.call 0x400#12) s), (after (exec (.call 0x400#12) s)).stack) =
      (some ⟨.stackOverflow 0x400#12, 0x300#16⟩, List.replicate 16 0x202#16) := by decide
theorem test_ret_pops_the_last : let t := after (exec .ret { st 0x300 0 0 0 with stack := [0x111#16, 0x202#16] })
    (t.pc, t.stack) = (0x202#16, [0x111#16]) := by decide
theorem test_ret_underflow : faultOf (exec .ret (st 0x300 0 0 0)) = some ⟨.stackUnderflow, 0x300#16⟩ := by decide
theorem test_jpV0Nnn_wraps : (after (exec (.jpV0Nnn 0xFF0#12) (st 0x200 0x20 0 0))).pc = 0x010#16 := by decide
theorem test_seVxKk_wraps : (after (exec (.seVxKk 0 0#8) (st 0xFFC 0 0 0))).pc = 0x000#16 := by decide
theorem test_seVxKk_false : (after (exec (.seVxKk 0 0x11#8) (st 0x210 0x10 0 0))).pc = 0x212#16 := by decide
theorem test_sneVxKk_true : (after (exec (.sneVxKk 0 0x11#8) (st 0x210 0x10 0 0))).pc = 0x214#16 := by decide
theorem test_sneVxKk_false : (after (exec (.sneVxKk 0 0x10#8) (st 0x210 0x10 0 0))).pc = 0x212#16 := by decide
theorem test_seVxVy_same_register : (after (exec (.seVxVy 1 1) (st 0x204 0 9 0))).pc = 0x208#16 := by decide
theorem test_sneVxVy_differ : (after (exec (.sneVxVy 0 1) (st 0x204 5 6 0))).pc = 0x208#16 := by decide
theorem test_sneVxVy_same_register : (after (exec (.sneVxVy 1 1) (st 0x204 0 9 0))).pc = 0x206#16 := by decide

/-! ## Address register and memory (vectors V70 to V88, E7) -/

theorem test_ldINnn : (after (exec (.ldINnn 0x2F0#12) (st 0x200 0 0 0))).i = 0x2F0#16 := by decide
theorem test_addIVx_wraps : let t := after (exec (.addIVx 0) (st 0x200 0x02 0 0xFFF))
    (t.i, t.readV 15) = (0x001#16, 0#8) := by decide
theorem test_ldFVx_low_nibble : (after (exec (.ldFVx 0) (st 0x200 0x1A 0 0))).i = 0x082#16 := by decide
theorem test_ldBVx : let t := after (exec (.ldBVx 0) (st 0x200 0xFE 0 0x300))
    (t.readMem 0x300, t.readMem 0x301, t.readMem 0x302, t.i) = (2#8, 5#8, 4#8, 0x300#16) := by decide
theorem test_ldBVx_out_of_range : let r := exec (.ldBVx 0) (st 0x200 9 0 0xFFE)
    (faultOf r, (after r).mem) = (some ⟨.outOfRange 0xFFE 0x1000 .write, 0x200#16⟩, []) := by decide
theorem test_ldMemVx : let t := after (exec (.ldMemVx 1) (st 0x200 0x11 0x22 0x400))
    (t.readMem 0x400, t.readMem 0x401, t.readMem 0x402, t.i) = (0x11#8, 0x22#8, 0#8, 0x400#16) := by decide
theorem test_ldMemVx_below_writeLo : let s := st 0x200 1 0 0x1FF
    faultOf (exec (.ldMemVx 0) { s with params := { s.params with writeLo := 0x200 } }) =
      some ⟨.outOfRange 0x1FF 0x1FF .write, 0x200#16⟩ := by decide
theorem test_ldVxMem_glyph : let t := after (exec (.ldVxMem 1) (st 0x200 0 0 0x055))
    (t.readV 0, t.readV 1, t.readV 2) = (0x20#8, 0x60#8, 0#8) := by decide
theorem test_ldVxMem_out_of_range : let r := exec (.ldVxMem 1) (st 0x200 3 4 0xFFF)
    (faultOf r, (after r).readV 0) = (some ⟨.outOfRange 0xFFF 0x1000 .read, 0x200#16⟩, 3#8) := by decide

/-! ## Display (vectors V90 to V100, E6) -/

/-- A display with two pixels of row 1 on. -/
def twoPixels : Grid := (blankGrid.set 1 ((blankGrid[1].set 60 true).set 2 true))

theorem test_cls_change_list : (after (exec .cls { st 0x200 0 0 0 with disp := twoPixels })).changeList =
    [⟨1, 2, false⟩, ⟨1, 60, false⟩] := by decide
theorem test_cls_pixel : let t := after (exec .cls { st 0x200 0 0 0 with disp := twoPixels })
    (t.pixel 1 60, t.drawFlag) = (false, true) := by decide
theorem test_drwVxVyN_wraps : let t := after (exec (.drwVxVyN 0 1 1) ((st 0x200 60 1 0x300).storeBytes 0x300 [0xC3#8]))
    (t.changeList, t.pixel 1 3, t.readV 15) =
      ([⟨1, 60, true⟩, ⟨1, 61, true⟩, ⟨1, 2, true⟩, ⟨1, 3, true⟩], true, 0#8) := by decide
theorem test_drwVxVyN_sticky : let s := { st 0x200 60 1 0x300 with disp := twoPixels }
    let t := after (exec (.drwVxVyN 0 1 2) (s.storeBytes 0x300 [0x80#8, 0x40#8]))
    (t.changeList, t.readV 15) = ([⟨1, 60, false⟩, ⟨2, 61, true⟩], 1#8) := by decide

/-! ## Keyboard and timers (vectors V110 to V136) -/

/-- The keys 3 and 9 pressed and then released, the key 5 held. -/
def keysState (pc : Word) (v0 : Byte) : State :=
  { st pc v0 0 0 with
    keyPrev := ((Vector.replicate 16 false).set 3 true).set 9 true
    keyCur := (Vector.replicate 16 false).set 5 true }

theorem test_skpVx_masks : (after (exec (.skpVx 0) (keysState 0x220 0x15))).pc = 0x224#16 := by decide
theorem test_skpVx_released : (after (exec (.skpVx 0) (keysState 0x220 3))).pc = 0x222#16 := by decide
theorem test_sknpVx_released : (after (exec (.sknpVx 0) (keysState 0x220 3))).pc = 0x224#16 := by decide
theorem test_sknpVx_held : (after (exec (.sknpVx 0) (keysState 0x220 5))).pc = 0x222#16 := by decide
theorem test_ldVxK_lowest : let t := after (exec (.ldVxK 0) (keysState 0x200 0x55))
    (t.readV 0, t.pc) = (3#8, 0x202#16) := by decide
theorem test_ldVxK_waits_at_the_top : let t := after (exec (.ldVxK 0) (st 0xFFE 0x55 0 0))
    (t.readV 0, t.pc) = (0x55#8, 0xFFE#16) := by decide
theorem test_ldVxDt : (after (exec (.ldVxDt 15) { st 0x200 0 0 0 with dt := 7#8 })).readV 15 = 7#8 := by decide
theorem test_ldDtVx : (after (exec (.ldDtVx 0) (st 0x200 0x3C 0 0))).dt = 0x3C#8 := by decide
theorem test_ldStVx : (after (exec (.ldStVx 0) (st 0x200 0x05 0 0))).st = 0x05#8 := by decide

/-! ## The step, the faults, the host's operations (vectors V133 to V144) -/

theorem test_step_jp : (after (step (State.reset.withFetchWord 16 0x1202))).pc = 0x202#16 := by decide
theorem test_step_unsupported : faultOf (step ({ st 0x300 9 0 0 with pc := 0x300#16 }.withFetchWord 16 0xE000)) =
    some ⟨.unsupportedOpcode 0xE000#16, 0x300#16⟩ := by decide
theorem test_step_fetch_past_memory : faultOf (step (st 0xFFF 0 0 0)) = some ⟨.fetchOutOfRange, 0xFFF#16⟩ := by decide
theorem test_fault_pc_is_one_of_two : let t := (st 0x300 0 0 0).takeFault .stackUnderflow
    t.pc = 0x300#16 ∨ t.pc = 0x302#16 := by
  intro t
  simp only [t, State.takeFault_pc]
  split
  · exact .inr rfl
  · exact .inl rfl
theorem test_tick_floors : let t := { st 0x200 0 0 0 with dt := 2#8, st := 0#8 }.tickTimers
    (t.dt, t.st) = (1#8, 0#8) := by decide
theorem test_setKey_press_release : let t := (State.reset.changeKey 2 true).changeKey 2 false
    (t.keyWasDown 2, t.keyDown 2) = (true, false) := by decide
theorem test_loadProgram : (orUnchanged State.reset (State.reset.loadProgram [0x12#8, 0x02#8])).readMem 0x201 = 0x02#8 := by
  decide
theorem test_reset_font : (State.reset.readMem 0x082, State.reset.readMem 0x09F, State.reset.readMem 0x0A0) =
    (0xF0#8, 0x80#8, 0#8) := by decide

set_option maxRecDepth 10000 in
theorem test_resetWith_defaults : (State.resetWith Params.defaults 0).mem = State.reset.mem := by decide

/-! ## Witnesses: states and operands that meet the hypotheses of the statements, each clause at a boundary of its range -/

/-- The reset state with a stack of `n` return addresses. -/
def deep (n : Nat) : State := { State.reset with stack := List.replicate n 0x202#16 }

/-- The reset state with I and WRITE_LO given. -/
def atAddr (i : Word) (writeLo : Nat) : State :=
  { State.reset with i := i, params := { Params.defaults with writeLo := writeLo } }

theorem witness_AddWritesCarryThenSum : (0 : RegNum) ≠ VF := by decide
theorem witness_SubtractionsWriteNoBorrowThenDifference : (14 : RegNum) ≠ VF := by decide
theorem witness_ShiftsWriteTheBitShiftedOut : (14 : RegNum) ≠ VF := by decide

theorem witness_SysFollowsItsMode_nop :
    ({ State.reset with params := { Params.defaults with sysMode := .nop } } : State).params.sysMode = .nop := by decide
theorem witness_SysFollowsItsMode_fault : State.reset.params.sysMode = .fault := by decide

theorem witness_CallPushesTheAdvancedPc_below : (deep 15).depth < 16 := by decide
theorem witness_CallPushesTheAdvancedPc_full : (deep 16).depth = 16 := by decide
theorem witness_ReturnPopsIntoPc_nonempty : (deep 1).stack = [] ++ [0x202#16] := by decide
theorem witness_ReturnPopsIntoPc_full : (deep 16).stack = List.replicate 15 0x202#16 ++ [0x202#16] := by decide
theorem witness_ReturnPopsIntoPc_empty : (deep 0).stack = [] := by decide
theorem witness_CallThenReturnComesBack : (deep 15).depth < 16 := by decide

theorem witness_BcdStoresTheDecimalDigits_inside : let s := atAddr 0xFFD 0xFFD
    s.params.writeLo ≤ s.i.toNat ∧ s.i.toNat + 2 ≤ 0xFFF := by decide
theorem witness_BcdStoresTheDecimalDigits_past : let s := atAddr 0xFFE 0
    s.i.toNat < s.params.writeLo ∨ 0xFFF < s.i.toNat + 2 := by decide
theorem witness_BcdStoresTheDecimalDigits_below : let s := atAddr 0x1FF 0x200
    s.i.toNat < s.params.writeLo ∨ 0xFFF < s.i.toNat + 2 := by decide
theorem witness_StoreRegistersAllOrNothing_inside : let s := atAddr 0xFF0 0xFF0
    s.params.writeLo ≤ s.i.toNat ∧ s.i.toNat + (15 : RegNum).val ≤ 0xFFF := by decide
theorem witness_StoreRegistersAllOrNothing_past : let s := atAddr 0xFF1 0
    s.i.toNat < s.params.writeLo ∨ 0xFFF < s.i.toNat + (15 : RegNum).val := by decide
theorem witness_StoreRegistersAllOrNothing_below : let s := atAddr 0x1FF 0x200
    s.i.toNat < s.params.writeLo ∨ 0xFFF < s.i.toNat + (0 : RegNum).val := by decide
theorem witness_StoreRegistersAllOrNothing_byte : (15 : RegNum) ≤ 15 := by decide
theorem witness_LoadRegistersAllOrNothing_inside : (atAddr 0xFFF 0).i.toNat + (0 : RegNum).val ≤ 0xFFF := by decide
theorem witness_LoadRegistersAllOrNothing_past : 0xFFF < (atAddr 0xFFF 0).i.toNat + (1 : RegNum).val := by decide
theorem witness_LoadAfterStoreGivesTheRegistersBack : let s := atAddr 0xFF0 0xFF0
    s.params.writeLo ≤ s.i.toNat ∧ s.i.toNat + (15 : RegNum).val ≤ 0xFFF := by decide

theorem witness_DrawTogglesExactlyTheSprite_none : (0 : Count).val = 0 ∨ (atAddr 0xFFF 0).i.toNat + (0 : Count).val ≤ 0x1000 := by
  decide
theorem witness_DrawTogglesExactlyTheSprite_top : (15 : Count).val = 0 ∨ (atAddr 0xFF1 0).i.toNat + (15 : Count).val ≤ 0x1000 := by
  decide
theorem witness_DrawPastMemoryFaults :
    (15 : Count).val ≠ 0 ∧ 0xFFF < (atAddr 0xFF2 0).i.toNat + (15 : Count).val - 1 := by decide
theorem witness_DrawListsEachChangedPixelOnce :
    (1 : Count).val = 0 ∨ (atAddr 0xFFF 0).i.toNat + (1 : Count).val ≤ 0x1000 := by decide
theorem witness_DrawingTwiceRestoresTheDisplay :
    (0 : RegNum) ≠ VF ∧ (14 : RegNum) ≠ VF ∧ ((1 : Count).val = 0 ∨ (atAddr 0xFFF 0).i.toNat + (1 : Count).val ≤ 0x1000) := by
  decide
theorem witness_DrawingTwiceRestoresTheDisplay_no_collision :
    (after (exec (.drwVxVyN 0 1 1) (st 0x200 0 0 0x050))).readV VF = 0#8 := by decide

theorem witness_KeySkipsTestTheCurrentKeyState : (15 : RegNum).val = ((st 0x200 0xFF 0 0).readV 0).toNat % 16 := by decide
theorem witness_KeyWaitEndsOnAReleaseEdge_edge : let s := keysState 0x200 0
    s.keyWasDown 3 = true ∧ s.keyDown 3 = false ∧
      ∀ j : RegNum, j < 3 → ¬ (s.keyWasDown j = true ∧ s.keyDown j = false) := by decide
theorem witness_KeyWaitEndsOnAReleaseEdge_none :
    ∀ k : RegNum, ¬ (State.reset.keyWasDown k = true ∧ State.reset.keyDown k = false) := by decide

theorem witness_DecodeOfEncodeIsTheInstruction : (Instr.sys 0x0EF#12).wellFormed = true := by decide
theorem witness_StepRunsTheInstructionAtPc : let s := { State.reset with pc := 0xFFE#16 }.withFetchWord 16 0x1FFE
    s.status = .running ∧ s.pc.toNat ≤ 0xFFE ∧
      decodeWord (BitVec.ofNat 16 (256 * (s.readMem s.pc.toNat).toNat + (s.readMem (s.pc.toNat + 1)).toNat)) =
        .ok (.jp 0xFFE#12) := by decide
theorem witness_FetchPastMemoryFaults : let s := { State.reset with pc := 0xFFF#16 }
    s.status = .running ∧ s.pc.toNat = 0xFFF := by decide
theorem witness_UnsupportedWordFaults : let s := { State.reset with pc := 0xFFE#16 }.withFetchWord 16 0x8128
    s.status = .running ∧ s.pc.toNat ≤ 0xFFE ∧ ∀ i, decodeWord s.wordAtPc ≠ .ok i := by
  refine ⟨by decide, by decide, fun i => ?_⟩
  have h : decodeWord ({ State.reset with pc := 0xFFE#16 }.withFetchWord 16 0x8128).wordAtPc = .error .noRow8 := by decide
  rw [h]
  exact nofun

/-- A state FAULTED by RET on an empty stack. -/
def faulted : State := State.reset.takeFault .stackUnderflow

theorem witness_FaultedCoreTakesNoStep : faulted.status = .faulted ⟨.stackUnderflow, 0x200#16⟩ ∧
    HostOp.setKey 3 true ≠ .reset := by decide
theorem witness_FaultEntryLeavesTheRestUnchanged_instruction :
    State.reset.status = .running ∧ faulted.status = .faulted ⟨.stackUnderflow, 0x200#16⟩ ∧
      ∃ i, exec i State.reset = .next faulted := ⟨by decide, by decide, .ret, rfl⟩
theorem witness_FaultEntryLeavesTheRestUnchanged_step : let s := { State.reset with pc := 0xFFF#16 }
    s.status = .running ∧ (s.takeFault .fetchOutOfRange).status = .faulted ⟨.fetchOutOfRange, 0xFFF#16⟩ ∧
      step s = .next (s.takeFault .fetchOutOfRange) := ⟨by decide, by decide, rfl⟩
theorem witness_EachInstructionRaisesItsOwnFaults_own :
    State.reset.status = .running ∧ exec .ret State.reset = .next faulted ∧
      faulted.status = .faulted ⟨.stackUnderflow, 0x200#16⟩ := ⟨by decide, rfl, by decide⟩
theorem witness_EachInstructionRaisesItsOwnFaults_fetch : let s := { State.reset with pc := 0xFFF#16 }
    s.status = .running ∧ 0xFFF < s.pc.toNat + 1 := by decide

theorem witness_OnlyThreeInstructionsWriteI : let t := after (exec (.ldFVx 0) State.reset)
    exec (.ldFVx 0) State.reset = .next t ∧ t.i ≠ State.reset.i := ⟨rfl, by decide⟩
theorem witness_OnlyCallAndReturnTouchTheStack_call : let t := after (exec (.call 0x300#12) (deep 15))
    exec (.call 0x300#12) (deep 15) = .next t ∧ t.stack ≠ (deep 15).stack := ⟨rfl, by decide⟩
theorem witness_OnlyCallAndReturnTouchTheStack_ret : let t := after (exec .ret (deep 1))
    exec .ret (deep 1) = .next t ∧ t.stack ≠ (deep 1).stack := ⟨rfl, by decide⟩
theorem witness_OnlyCallAndReturnTouchTheStack_memory : let u := after (exec .ret { deep 1 with mem := [(0x300, 1#8)] })
    exec .ret { deep 1 with mem := [(0x300, 1#8)] } = .next u := rfl
theorem witness_OnlyCallAndReturnTouchTheStack_other :
    (∀ nnn, Instr.cls ≠ .call nnn) ∧ Instr.cls ≠ .ret := ⟨fun _ => Instr.noConfusion, Instr.noConfusion⟩
theorem witness_OnlyStoresAndLoadsOfProgramsWriteMemory_store :
    let s := atAddr 0x300 0
    let t := after (exec (.ldBVx 0) s)
    exec (.ldBVx 0) s = .next t ∧ (0x2FF < s.i.toNat ∨ s.i.toNat + bytesStored (.ldBVx 0) ≤ 0x2FF) ∧
      (0x303 < s.i.toNat ∨ s.i.toNat + bytesStored (.ldBVx 0) ≤ 0x303) := ⟨rfl, by decide, by decide⟩
theorem witness_OnlyStoresAndLoadsOfProgramsWriteMemory_host :
    HostOp.tickTimers ≠ .reset ∧ HostOp.tickTimers ≠ .step ∧ ∀ bytes, HostOp.tickTimers ≠ .loadProgram bytes :=
  ⟨by decide, by decide, fun _ => HostOp.noConfusion⟩
theorem witness_OnlyClearAndDrawWriteTheDisplay_clear : let t := after (exec .cls State.reset)
    exec .cls State.reset = .next t ∧ t.status = State.reset.status ∧ State.reset.status = .running :=
  ⟨rfl, rfl, rfl⟩
theorem witness_OnlyClearAndDrawWriteTheDisplay_other : let s := { State.reset with drawFlag := true }
    let t := after (exec (.ldINnn 0x2F0#12) s)
    exec (.ldINnn 0x2F0#12) s = .next t ∧ t.status = s.status ∧ s.status = .running := ⟨rfl, rfl, rfl⟩
theorem witness_RegistersChangeOnlyAsDestinationOrFlag_flag :
    let s := st 0x200 0xC8 0x64 0
    let t := after (exec (.addVxVy 0 1) s)
    exec (.addVxVy 0 1) s = .next t ∧ t.readV VF ≠ s.readV VF ∧ setsFlag (.addVxVy 0 1) = true ∧
      VF ∉ destinations (.addVxVy 0 1) ∧ t.status = .running :=
  ⟨rfl, by decide, by decide, by decide, by decide⟩
theorem witness_TimersLatchAndRandomByteHaveOneWriter_dt : let t := after (exec (.ldDtVx 0) (st 0x200 1 0 0))
    exec (.ldDtVx 0) (st 0x200 1 0 0) = .next t ∧ t.dt ≠ (st 0x200 1 0 0).dt := ⟨rfl, by decide⟩
theorem witness_TimersLatchAndRandomByteHaveOneWriter_st : let t := after (exec (.ldStVx 0) (st 0x200 1 0 0))
    exec (.ldStVx 0) (st 0x200 1 0 0) = .next t ∧ t.st ≠ (st 0x200 1 0 0).st := ⟨rfl, by decide⟩

/-- A state whose last random byte is not the next one. -/
def otherRand : State := { State.reset with lastRand := Config.randByte 0 + 1#8 }

theorem witness_TimersLatchAndRandomByteHaveOneWriter_rand : let t := after (exec (.rndVxKk 0 0xFF#8) otherRand)
    exec (.rndVxKk 0 0xFF#8) otherRand = .next t ∧ t.lastRand ≠ otherRand.lastRand := by
  refine ⟨rfl, ?_⟩
  show Config.randByte 0 ≠ Config.randByte 0 + 1#8
  intro h
  have := congrArg BitVec.toNat h
  simp only [BitVec.toNat_add, BitVec.toNat_ofNat] at this
  omega

/-- At 0xFFC a store over the last word of memory, that becomes a jump to itself. -/
def selfModifying : State :=
  { st 0xFFC 0x1F 0xFE 0xFFE with params := { Params.defaults with writeLo := 0xFFE } }.placeWord 0xF155#16

theorem witness_StoredWordIsTheNextInstruction : let s := selfModifying
    s.status = .running ∧ s.pc.toNat + 3 ≤ 0xFFF ∧ s.i.toNat = s.pc.toNat + 2 ∧ s.params.writeLo ≤ s.i.toNat ∧
      s.wordAtPc = 0xF155#16 ∧ decodeWord (s.readV 0 ++ s.readV 1) = .ok (.jp 0xFFE#12) := by decide
theorem witness_SelfJumpIsAtRest : (State.reset.withFetchWord 16 0x1200).endedWell = true := by decide
theorem witness_IndexAbove15IsARangeError : 15 < 16 := by decide
theorem witness_LoadProgramCopiesOrRefuses_longest : (List.replicate 3584 0#8).length ≤ 3584 := by
  rw [List.length_replicate]
theorem witness_LoadProgramCopiesOrRefuses_byte : 0xE00 - 1 < (List.replicate 3584 0#8).length := by
  rw [List.length_replicate]; omega
theorem witness_LoadProgramCopiesOrRefuses_too_long : 3584 < (List.replicate 3585 0#8).length := by
  rw [List.length_replicate]; omega
theorem witness_AccessorsReadWhatTheyName_inside : 0xFFF ≤ 0xFFF ∧ 0xFFF ≤ 0xFFF := by decide
theorem witness_AccessorsReadWhatTheyName_past : 0xFFF < 0x1000 := by decide
theorem witness_StackPointerMirrorsTheDepth_call : (deep 15).depth < 16 := by decide
theorem witness_StackPointerMirrorsTheDepth_ret : (deep 1).stack ≠ [] := by decide
theorem witness_StackPointerMirrorsTheDepth_signed : (deep 16).params.spEmpty = 0xFF#8 ∧ (deep 16).depth ≤ 16 := by decide

/-- Every field of `Legal` at the reset state. -/
theorem witness_reset_legal : State.reset.Legal where
  i_inSpace := by unfold inSpace; decide
  pc_inSpace := by unfold inSpace; decide
  depth_le := by decide
  stack_inSpace := nofun
  mem_wf := by decide
  initMem_wf := by decide

theorem witness_StepKeepsTheStateLegal : let s := State.reset.withFetchWord 16 0x2300
    s.Legal ∧ step s = .next (after (step s)) :=
  ⟨⟨by unfold inSpace; decide, by unfold inSpace; decide, by decide, nofun, by decide, by decide⟩, rfl⟩
theorem witness_ResetStatesAreLegal : Memory.wf [(0x000, 1#8), (0xFFF, 1#8)] = true := by decide
theorem witness_EveryReachableStateIsLegal : Reachable (hostRun (State.resetWith Params.defaults 0) [.tickTimers]) :=
  ⟨Params.defaults, 0, [.tickTimers], rfl, rfl⟩
theorem witness_StackDepthStaysInBounds_empty :
    Reachable (State.resetWith Params.defaults 0) ∧ (State.resetWith Params.defaults 0).depth = 0 :=
  ⟨⟨Params.defaults, 0, [], rfl, rfl⟩, rfl⟩

/-- A CALL of itself, placed at 0x200 and stepped until the stack is full. -/
def recursion : List HostOp := .loadProgram [0x22#8, 0x00#8] :: List.replicate 16 .step

set_option maxRecDepth 20000 in
theorem witness_StackDepthStaysInBounds_full :
    Reachable (hostRun (State.resetWith Params.defaults 0) recursion) ∧
      (hostRun (State.resetWith Params.defaults 0) recursion).depth = 16 :=
  ⟨⟨Params.defaults, 0, recursion, rfl, rfl⟩, by decide⟩

end Sys2Proof.Tests
end

section
/-! Proofs, the frame of an instruction: which instructions can change each part of the state, said once over `effect`,
and what `exec` answers when its own fault is or is not taken. -/

namespace Sys2Proof.Machine

theorem exec_of_ownFault {i : Instr} {s : State} {c : FaultCause} (h : ownFault i s = some c) :
    exec i s = .next (s.takeFault c) := by
  rw [exec_eq, h, checked_some]

theorem exec_of_noFault {i : Instr} {s : State} (h : ownFault i s = none) : exec i s = .next (effect i s) := by
  rw [exec_eq, h, checked_none]

/-- An instruction that leaves the core RUNNING took no fault. -/
theorem eq_effect_of_running {i : Instr} {s t : State} (h : exec i s = .next t) (ht : t.status = .running) :
    t = effect i s := by
  obtain ⟨c, -, rfl⟩ | ⟨-, rfl⟩ := exec_cases h
  · rw [State.takeFault_status] at ht
    cases ht
  · rfl

/-- The parts of the state other than the registers, PC and the draw flag, each with the instructions that can change it
(R23, R25, R28, R29, R31, R33 to R35, R52, R5). -/
structure Frame (i : Instr) (s t : State) : Prop where
  i_changed : t.i ≠ s.i → (∃ nnn, i = .ldINnn nnn) ∨ (∃ x, i = .addIVx x) ∨ (∃ x, i = .ldFVx x)
  stack_changed : t.stack ≠ s.stack → (∃ nnn, i = .call nnn) ∨ i = .ret
  dt_changed : t.dt ≠ s.dt → ∃ x, i = .ldDtVx x
  st_changed : t.st ≠ s.st → ∃ x, i = .ldStVx x
  lastRand_changed : t.lastRand ≠ s.lastRand → ∃ x kk, i = .rndVxKk x kk
  mem_changed : t.mem ≠ s.mem → (∃ x, i = .ldBVx x) ∨ (∃ x, i = .ldMemVx x)
  disp_changed : t.disp ≠ s.disp → i = .cls ∨ ∃ x y n, i = .drwVxVyN x y n
  changeList_changed : t.changeList ≠ s.changeList → i = .cls ∨ ∃ x y n, i = .drwVxVyN x y n
  keyCur : t.keyCur = s.keyCur
  keyPrev : t.keyPrev = s.keyPrev
  params : t.params = s.params

theorem takeFault_frame (i : Instr) (s : State) (c : FaultCause) : Frame i s (s.takeFault c) := by
  constructor <;> simp

/-- LD Vx,K, whether or not a key was released, moves PC and sets registers (R192). -/
theorem effect_ldVxK (x : RegNum) (s : State) :
    ∃ w v, effect (.ldVxK x) s = (s.enterExecute.setPc w).setAllV v := by
  cases h : s.releasedKey with
  | none => exact ⟨s.enterExecute.pc - 2#16, s.v, by simp only [effect, h]; rfl⟩
  | some k => exact ⟨s.pc + 2#16, s.v.set x (BitVec.ofNat 8 k.val), by simp only [effect, h]; rfl⟩

theorem effect_frame (i : Instr) (s : State) : Frame i s (effect i s) := by
  cases i
  case ldVxK x =>
    obtain ⟨w, v, h⟩ := effect_ldVxK x s
    rw [h]
    constructor <;> simp
  all_goals constructor <;> simp [effect]

theorem exec_frame {i : Instr} {s t : State} (h : exec i s = .next t) : Frame i s t := by
  obtain ⟨c, -, rfl⟩ | ⟨-, rfl⟩ := exec_cases h
  · exact takeFault_frame i s c
  · exact effect_frame i s

/-- Settles O41: the frame's clause for I. -/
theorem onlyThreeInstructionsWriteI : Obligations.OnlyThreeInstructionsWriteI := fun _ _ _ h => (exec_frame h).i_changed

/-- Settles O46: the frame's clauses for the timers, the random byte, the latch and the parameters. -/
theorem timersLatchAndRandomByteHaveOneWriter : Obligations.TimersLatchAndRandomByteHaveOneWriter := by
  intro i s t h
  have f := exec_frame h
  have latch (k : RegNum) : t.keyDown k = s.keyDown k ∧ t.keyWasDown k = s.keyWasDown k := by
    simp [State.keyDown, State.keyWasDown, f.keyCur, f.keyPrev]
  exact ⟨f.dt_changed, f.st_changed, f.lastRand_changed, latch, f.params⟩

end Sys2Proof.Machine
end

section
/-! Proofs, the invariant: every instruction, every step and every host operation keeps a legal state legal. -/

namespace Sys2Proof.Machine

theorem State.skipIf_pc_inSpace {s : State} (h : inSpace s.pc) (c : Bool) : inSpace (s.skipIf c).pc := by
  cases c
  · exact h
  · exact mask12_inSpace _

/-- Every write of PC passes through `mask12`, so the PC an instruction leaves is legal whatever it was (R24). -/
theorem effect_pc_inSpace (i : Instr) (s : State) : inSpace (effect i s).pc := by
  cases i
  case ldVxK x =>
    obtain ⟨w, v, h⟩ := effect_ldVxK x s
    rw [h]
    exact mask12_inSpace w
  case seVxKk | sneVxKk | seVxVy | sneVxVy | skpVx | sknpVx => exact State.skipIf_pc_inSpace (mask12_inSpace _) _
  all_goals exact mask12_inSpace _

section

variable {i : Instr} {s t : State}

theorem effect_i_inSpace (h : inSpace s.i) : inSpace (effect i s).i := by
  by_cases hi : (effect i s).i = s.i
  · rwa [hi]
  · obtain ⟨_, rfl⟩ | ⟨_, rfl⟩ | ⟨_, rfl⟩ := (effect_frame i s).i_changed hi <;> exact mask12_inSpace _

/-- What an instruction that completes does to the stack: nothing, or CALL pushes the advanced PC onto a stack that is
not full, or RET takes the last entry off one that is not empty (R132, R133). -/
theorem effect_stack_cases (h : ownFault i s = none) :
    (effect i s).stack = s.stack ∨
    ((∃ nnn, i = .call nnn) ∧ s.depth < Config.stackDepth ∧
      (effect i s).stack = s.stack ++ [mask12 (s.pc + 2#16)]) ∨
    (i = .ret ∧ ∃ top, s.stack = (effect i s).stack ++ [top]) := by
  by_cases hs : (effect i s).stack = s.stack
  · exact .inl hs
  · right
    obtain ⟨nnn, rfl⟩ | rfl := (effect_frame i s).stack_changed hs
    · exact .inl ⟨⟨nnn, rfl⟩, by simpa [ownFault] using h, rfl⟩
    · have hne : s.stack ≠ [] := by simpa [ownFault] using h
      exact .inr ⟨rfl, s.stack.getLast hne, (List.dropLast_append_getLast hne).symm⟩

theorem effect_depth_le (h : ownFault i s = none) (hd : s.depth ≤ Config.stackDepth) :
    (effect i s).depth ≤ Config.stackDepth := by
  simp only [State.depth] at hd ⊢
  obtain hs | ⟨-, hlt, hs⟩ | ⟨-, top, hs⟩ := effect_stack_cases h
  · rwa [hs]
  · rw [hs, List.length_append]
    exact hlt
  · rw [hs, List.length_append] at hd
    omega

theorem effect_stack_inSpace (h : ownFault i s = none) (hw : ∀ w ∈ s.stack, inSpace w) :
    ∀ w ∈ (effect i s).stack, inSpace w := by
  obtain hs | ⟨-, -, hs⟩ | ⟨-, top, hs⟩ := effect_stack_cases h
  · rwa [hs]
  · rw [hs, List.forall_mem_append]
    exact ⟨hw, by simp [mask12_inSpace]⟩
  · rw [hs, List.forall_mem_append] at hw
    exact hw.1

/-- The range check of a store keeps its bytes inside the address space (R60), so memory stays canonical. -/
theorem effect_mem_wf (h : ownFault i s = none) (hm : Memory.wf s.mem = true) :
    Memory.wf (effect i s).mem = true := by
  by_cases hs : (effect i s).mem = s.mem
  · rwa [hs]
  · obtain ⟨x, rfl⟩ | ⟨x, rfl⟩ := (effect_frame i s).mem_changed hs
    all_goals
      have hhi := (State.checkWrite_eq_none.mp h).2
      refine Memory.wf_writeBytes hm _ _ ?_
      simp only [State.atI_eq, bcdDigits_length, State.regsUpTo_length, Config.memSize] at hhi ⊢
      omega

theorem State.Legal.effect (hs : s.Legal) (h : ownFault i s = none) : (effect i s).Legal where
  i_inSpace := effect_i_inSpace hs.i_inSpace
  pc_inSpace := effect_pc_inSpace i s
  depth_le := effect_depth_le h hs.depth_le
  stack_inSpace := effect_stack_inSpace h hs.stack_inSpace
  mem_wf := effect_mem_wf h hs.mem_wf
  initMem_wf := by rw [(effect_frame i s).params]; exact hs.initMem_wf

/-- Fault entry writes PC alone among the parts `Legal` speaks of (R214). -/
theorem State.Legal.takeFault (hs : s.Legal) (c : FaultCause) : (s.takeFault c).Legal :=
  { hs with
    pc_inSpace := by
      rw [State.takeFault_pc]
      split
      · exact mask12_inSpace _
      · exact hs.pc_inSpace }

theorem State.Legal.exec (hs : s.Legal) (h : exec i s = .next t) : t.Legal := by
  obtain ⟨c, -, rfl⟩ | ⟨hf, rfl⟩ := exec_cases h
  · exact hs.takeFault c
  · exact hs.effect hf

theorem State.Legal.step (hs : s.Legal) (h : step s = .next t) : t.Legal := by
  obtain ⟨-, ⟨c, -, rfl⟩ | ⟨i, -, hi⟩⟩ := step_cases h
  · exact hs.takeFault c
  · exact hs.exec hi

end

/-- Settles O57: a step is a fault entry or one instruction, and each keeps every clause of `Legal`. -/
theorem stepKeepsTheStateLegal : Obligations.StepKeepsTheStateLegal := fun _ _ hs h => hs.step h

/-! The host's operations keep `Legal` too, so every reachable state has it. -/

theorem State.resetWith_legal {p : Params} (hp : Memory.wf p.initMem = true) (n : Nat) :
    (State.resetWith p n).Legal where
  i_inSpace := Nat.zero_le _
  pc_inSpace := show 0x200 ≤ 0xFFF by decide
  depth_le := Nat.zero_le _
  stack_inSpace := nofun
  mem_wf := Memory.wf_writeBytes hp _ _ (by simp [fontBytes, Config.fontBase, Config.fontSize, Config.memSize])
  initMem_wf := hp

theorem State.Legal.loadProgram {s t : State} {bytes : List Byte} (hs : s.Legal) (h : s.loadProgram bytes = .ok t) :
    t.Legal := by
  simp only [State.loadProgram] at h
  split at h <;> cases h
  next hlen =>
    have hmem : Memory.wf (Memory.writeBytes s.mem Config.progBase bytes) = true :=
      Memory.wf_writeBytes hs.mem_wf _ _ (by simp only [Config.memSize, Config.progBase] at hlen ⊢; omega)
    exact { hs with mem_wf := hmem }

theorem State.Legal.changeKey {s : State} (hs : s.Legal) (k : RegNum) (p : Bool) : (s.changeKey k p).Legal := by
  unfold State.changeKey
  split
  · exact hs
  · exact { hs with }

theorem State.Legal.setKey {s t : State} {k : Nat} {p : Bool} (hs : s.Legal) (h : s.setKey k p = .ok t) : t.Legal := by
  simp only [State.setKey] at h
  split at h <;> cases h
  exact hs.changeKey _ p

theorem State.Legal.afterStep {s : State} (hs : s.Legal) : s.afterStep.Legal := by
  unfold State.afterStep
  split
  · next t h => exact hs.step h
  · exact hs
  · exact hs

theorem orUnchanged_legal {s : State} {r : Except HostError State} (hs : s.Legal) (hr : ∀ t, r = .ok t → t.Legal) :
    (orUnchanged s r).Legal := by
  cases r with
  | ok t => exact hr t rfl
  | error e => exact hs

theorem State.Legal.hostApply {s : State} (hs : s.Legal) (op : HostOp) : (hostApply s op).Legal := by
  cases op with
  | reset => exact State.resetWith_legal hs.initMem_wf s.freeCount
  | loadProgram bytes => exact orUnchanged_legal hs fun _ h => hs.loadProgram h
  | step => exact hs.afterStep
  | tickTimers => exact { hs with }
  | setKey k p => exact orUnchanged_legal hs fun _ h => hs.setKey h

theorem State.Legal.hostRun {s : State} (hs : s.Legal) (ops : List HostOp) : (hostRun s ops).Legal := by
  induction ops generalizing s with
  | nil => exact hs
  | cons op ops ih => exact ih (hs.hostApply op)

theorem Reachable.legal {s : State} (h : Reachable s) : s.Legal := by
  obtain ⟨p, n, ops, hp, rfl⟩ := h
  exact (State.resetWith_legal hp n).hostRun ops

/-! The stack at its bounds. -/

theorem ownFault_call_of_full {s : State} (h : s.depth = 16) (nnn : Addr) :
    ownFault (.call nnn) s = some (.stackOverflow nnn) := by
  simp [ownFault, h, Config.stackDepth]

theorem ownFault_ret_of_empty {s : State} (h : s.stack = []) : ownFault .ret s = some .stackUnderflow := by
  simp [ownFault, h]

/-- Settles O60: the depth by the invariant; CALL on a full and RET on an empty stack take faults, which leave it. -/
theorem stackDepthStaysInBounds : Obligations.StackDepthStaysInBounds := by
  intro s hs
  refine ⟨hs.legal.depth_le, fun nnn hd => ?_, fun hd => ?_⟩
  · exact ⟨_, exec_of_ownFault (ownFault_call_of_full hd nnn), rfl, rfl⟩
  · exact ⟨_, exec_of_ownFault (ownFault_ret_of_empty (List.length_eq_zero_iff.mp hd)), rfl, rfl⟩

end Sys2Proof.Machine
end

section
/-! Proofs, the stack: what CALL and RET do to SP, and that no other instruction and no byte of memory reaches it. -/

namespace Sys2Proof.Machine

/-- SP moves with the depth alone (R27). -/
theorem State.sp_of_depth_succ {s t : State} (hp : t.params = s.params) (hd : t.depth = s.depth + 1) :
    t.sp = s.sp + 1#8 := by
  rw [State.sp, State.sp, hp, hd, BitVec.ofNat_add, BitVec.add_assoc]

/-- With the sentinel −1 the signed SP is the depth less one, as long as that fits a signed byte. -/
theorem State.spSigned_of_sentinel {s : State} (he : s.params.spEmpty = 0xFF#8) (hd : s.depth ≤ 16) :
    s.spSigned = (s.depth : Int) - 1 := by
  simp only [State.spSigned, State.sp, he]
  generalize s.depth = d at hd
  interval_cases d <;> decide

theorem ownFault_call_of_lt {s : State} (h : s.depth < 16) (nnn : Addr) : ownFault (.call nnn) s = none := by
  simp [ownFault, Config.stackDepth, h]

theorem ownFault_ret_of_ne {s : State} (h : s.stack ≠ []) : ownFault .ret s = none := by
  simp [ownFault, h]

/-- Settles O56: CALL makes the depth one more, RET one less, and SP follows. -/
theorem stackPointerMirrorsTheDepth : Obligations.StackPointerMirrorsTheDepth := by
  refine ⟨fun s => ?_, fun nnn s hd => ?_, fun s hs => ?_, fun s he hd => State.spSigned_of_sentinel he hd⟩
  · exact BitVec.add_zero _
  · refine ⟨_, exec_of_noFault (ownFault_call_of_lt hd nnn), State.sp_of_depth_succ rfl ?_⟩
    simp [effect]
  · refine ⟨_, exec_of_noFault (ownFault_ret_of_ne hs), BitVec.eq_sub_iff_add_eq.mpr ?_⟩
    have hd : s.depth = (effect .ret s).depth + 1 := by
      have := List.length_pos_iff.mpr hs
      simp only [State.depth, effect, State.setPc_stack, State.setStack_stack, List.length_dropLast]
      omega
    exact (State.sp_of_depth_succ (effect_frame .ret s).params.symm hd).symm

/-! What memory holds decides neither the fault an instruction takes nor the stack it leaves. -/

theorem ownFault_setMem (i : Instr) (s : State) (m : List Host.Cell) : ownFault i (s.setMem m) = ownFault i s := by
  cases i <;> rfl

theorem effect_setMem_stack (i : Instr) (s : State) (m : List Host.Cell) :
    (effect i (s.setMem m)).stack = (effect i s).stack := by
  by_cases h : (∃ nnn, i = .call nnn) ∨ i = .ret
  · obtain ⟨nnn, rfl⟩ | rfl := h <;> rfl
  · have keeps (u : State) : (effect i u).stack = u.stack := not_not.mp (mt (effect_frame i u).stack_changed h)
    rw [keeps, keeps, State.setMem_stack]

theorem exec_setMem_stack {i : Instr} {s t u : State} {m : List Host.Cell} (h : exec i s = .next t)
    (hu : exec i (s.setMem m) = .next u) : u.stack = t.stack := by
  obtain ⟨c, hc, rfl⟩ | ⟨hn, rfl⟩ := exec_cases h
  · rw [exec_of_ownFault ((ownFault_setMem i s m).trans hc)] at hu
    cases hu
    rfl
  · rw [exec_of_noFault ((ownFault_setMem i s m).trans hn)] at hu
    cases hu
    exact effect_setMem_stack i s m

/-! An instruction other than CALL and RET does the same with any other stack. -/

theorem State.skipIf_setStack (s : State) (l : List Word) (c : Bool) :
    (s.setStack l).skipIf c = (s.skipIf c).setStack l := by
  cases c <;> rfl

section

variable {i : Instr} (hc : ∀ nnn, i ≠ .call nnn) (hr : i ≠ .ret) (s : State) (l : List Word)
include hc hr

theorem ownFault_setStack : ownFault i (s.setStack l) = ownFault i s := by
  cases i
  case call nnn => exact absurd rfl (hc nnn)
  case ret => exact absurd rfl hr
  all_goals rfl

theorem effect_setStack : effect i (s.setStack l) = (effect i s).setStack l := by
  cases i
  case call nnn => exact absurd rfl (hc nnn)
  case ret => exact absurd rfl hr
  case seVxKk | sneVxKk | seVxVy | sneVxVy | skpVx | sknpVx => exact State.skipIf_setStack s.enterExecute l _
  case ldVxK x =>
    have e : (s.setStack l).releasedKey = s.releasedKey := rfl
    cases h : s.releasedKey <;> simp only [effect, h, e] <;> rfl
  all_goals rfl

theorem exec_setStack {t : State} (h : exec i s = .next t) : exec i (s.setStack l) = .next (t.setStack l) := by
  obtain ⟨c, hf, rfl⟩ | ⟨hf, rfl⟩ := exec_cases h
  · exact exec_of_ownFault ((ownFault_setStack hc hr s l).trans hf)
  · rw [exec_of_noFault ((ownFault_setStack hc hr s l).trans hf), effect_setStack hc hr s l]

end

/-- The three shapes of a stack an instruction can leave (R25). -/
theorem exec_stack_cases {i : Instr} {s t : State} (h : exec i s = .next t) :
    t.stack = s.stack ∨
    (∃ nnn ret, i = .call nnn ∧ t.stack = s.stack ++ [ret] ∧ ret.toNat ≤ 0xFFF ∧ t.depth ≤ 16) ∨
    (i = .ret ∧ ∃ top, s.stack = t.stack ++ [top]) := by
  obtain ⟨c, -, rfl⟩ | ⟨hn, rfl⟩ := exec_cases h
  · exact .inl rfl
  · obtain hs | ⟨⟨nnn, rfl⟩, hlt, hs⟩ | hs := effect_stack_cases hn
    · exact .inl hs
    · exact .inr (.inl ⟨nnn, _, rfl, hs, mask12_inSpace _, effect_depth_le hn hlt.le⟩)
    · exact .inr (.inr hs)

/-- CALL and RET, which alone change the stack, are no stores. -/
theorem exec_mem_of_stack_changed {i : Instr} {s t : State} (h : exec i s = .next t) (hs : t.stack ≠ s.stack) :
    t.mem = s.mem := by
  by_contra hm
  obtain ⟨_, rfl⟩ | rfl := (exec_frame h).stack_changed hs <;> simpa using (exec_frame h).mem_changed hm

/-- Settles O42, each clause by its lemma above. -/
theorem onlyCallAndReturnTouchTheStack : Obligations.OnlyCallAndReturnTouchTheStack := by
  refine ⟨rfl, fun i s t h => ⟨exec_stack_cases h, fun hs a => ?_, fun m u hu => ?_, fun l hc hr => ?_⟩⟩
  · rw [State.readMem, exec_mem_of_stack_changed h hs, State.readMem]
  · exact exec_setMem_stack h hu
  · exact exec_setStack hc hr s l h

end Sys2Proof.Machine
end

section
/-! Proofs, the display and the registers: which instructions present a display, and which set a register or VF. -/

namespace Sys2Proof.Machine

/-! The display, the change list and the draw flag. -/

/-- CLS and DRW, which end in `present`, leave the draw flag true; every other effect leaves it cleared (R36, R85). -/
theorem effect_drawFlag (i : Instr) (s : State) :
    (effect i s).drawFlag = true ↔ i = .cls ∨ ∃ x y n, i = .drwVxVyN x y n := by
  cases i
  case ldVxK x =>
    obtain ⟨w, v, h⟩ := effect_ldVxK x s
    simp [h]
  all_goals simp [effect]

/-- Settles O44: an instruction that completes has its effect, whose draw flag is known and whose frame spares the
display. -/
theorem onlyClearAndDrawWriteTheDisplay : Obligations.OnlyClearAndDrawWriteTheDisplay := by
  intro i s t h hst hrun
  obtain rfl := eq_effect_of_running h (hst.trans hrun)
  have f := effect_frame i s
  split
  · next hi => exact (effect_drawFlag i s).mpr hi
  · next hi =>
    have hdisp : (effect i s).disp = s.disp := not_not.mp (mt f.disp_changed hi)
    refine ⟨Bool.eq_false_iff.mpr (mt (effect_drawFlag i s).mp hi), not_not.mp (mt f.changeList_changed hi), ?_⟩
    intro r c
    rw [State.pixel, hdisp, State.pixel]

/-! The registers. -/

/-- A register an effect changes is a destination, or VF as the flag of one of the six (R20, R21). -/
theorem effect_readV_changed {i : Instr} {s : State} {r : RegNum} (h : (effect i s).readV r ≠ s.readV r) :
    r ∈ destinations i ∨ (r = VF ∧ setsFlag i = true) := by
  by_contra hn
  obtain ⟨hd, hf⟩ := not_or.mp hn
  refine h ?_
  cases i
  case ldVxKk | addVxKk | ldVxVy | orVxVy | andVxVy | xorVxVy | rndVxKk | ldVxDt =>
    exact State.setV_readV_ne _ (by simpa [destinations] using hd) _
  case addVxVy | subVxVy | shrVx | subnVxVy | shlVx =>
    exact State.setFlagThenV_readV_ne _ (by simpa [destinations] using hd) (by simpa [setsFlag] using hf) _ _
  case drwVxVyN => exact State.setV_readV_ne _ (by simpa [setsFlag] using hf) _
  case ldVxMem x =>
    have hr : ¬ r ≤ x := by simpa [destinations] using hd
    exact (State.loadedRegs_getElem s x r).trans (if_neg hr)
  case ldVxK x =>
    have hr : r ≠ x := by simpa [destinations] using hd
    cases hk : s.releasedKey with
    | none => simp only [effect, hk]; rfl
    | some k => simp only [effect, hk]; exact State.setV_readV_ne _ hr _
  all_goals simp [effect]

/-- The six flag setters leave a flag in a VF that is not their destination (R21, R100). -/
theorem effect_readV_VF_of_setsFlag {i : Instr} (s : State) (hf : setsFlag i = true) (hd : VF ∉ destinations i) :
    ∃ b, (effect i s).readV VF = bool01 b := by
  cases i
  case addVxVy | subVxVy | shrVx | subnVxVy | shlVx =>
    exact ⟨_, State.setFlagThenV_readV_VF _ (by simpa [destinations, eq_comm] using hd) _ _⟩
  case drwVxVyN => exact ⟨_, State.setV_readV_self _ VF _⟩
  all_goals cases hf

/-- Settles O45: a fault leaves the registers as they were and the core not RUNNING; an effect keeps both clauses. -/
theorem registersChangeOnlyAsDestinationOrFlag : Obligations.RegistersChangeOnlyAsDestinationOrFlag := by
  intro i s t h
  obtain ⟨c, -, rfl⟩ | ⟨-, rfl⟩ := exec_cases h
  · exact ⟨fun r hr => absurd rfl hr, fun _ _ hrun => by simp at hrun⟩
  · refine ⟨fun r hr => effect_readV_changed hr, fun hf hd _ => ?_⟩
    obtain ⟨b, hb⟩ := effect_readV_VF_of_setsFlag s hf hd
    rw [hb]
    exact bool01_zero_or_one b

end Sys2Proof.Machine
end

section
/-! Proofs, memory: which bytes a store can reach, what the fetch reads at PC, and that it reads the bytes just stored. -/

namespace Sys2Proof.Machine

/-! The bytes of a store (R52, R54, R57). -/

theorem State.storeBytes_readMem_outside (s : State) (a₀ : Nat) (bs : List Byte) {a : Nat}
    (h : a < a₀ ∨ a₀ + bs.length ≤ a) : (s.storeBytes a₀ bs).readMem a = s.readMem a :=
  Memory.read_writeBytes_outside s.mem a₀ bs h

theorem State.storeBytes_readMem_inside (s : State) (a₀ : Nat) (bs : List Byte) (k : Nat) (h : k < bs.length) :
    (s.storeBytes a₀ bs).readMem (a₀ + k) = bs[k] :=
  Memory.read_writeBytes_inside s.mem a₀ bs k h

/-- The two stores write as many bytes from I on as `bytesStored` says; the frame spares memory from every other
instruction. -/
theorem effect_readMem_outside {i : Instr} {s : State} {a : Nat}
    (h : a < s.i.toNat ∨ s.i.toNat + bytesStored i ≤ a) : (effect i s).readMem a = s.readMem a := by
  by_cases hm : (effect i s).mem = s.mem
  · rw [State.readMem, hm, State.readMem]
  · obtain ⟨x, rfl⟩ | ⟨x, rfl⟩ := (effect_frame i s).mem_changed hm
    · exact State.storeBytes_readMem_outside s.enterExecute _ _ h
    · exact State.storeBytes_readMem_outside s.enterExecute _ _ (by rwa [State.regsUpTo_length])

theorem State.changeKey_readMem (s : State) (k : RegNum) (p : Bool) (a : Nat) :
    (s.changeKey k p).readMem a = s.readMem a := by
  unfold State.changeKey
  split <;> rfl

theorem orUnchanged_setKey_readMem (s : State) (k : Nat) (p : Bool) (a : Nat) :
    (orUnchanged s (s.setKey k p)).readMem a = s.readMem a := by
  unfold State.setKey
  split
  · exact s.changeKey_readMem _ p a
  · rfl

/-- Settles O43: an instruction faults, which leaves memory, or has its effect; of the host's operations only
`tickTimers` and `setKey` are left. -/
theorem onlyStoresAndLoadsOfProgramsWriteMemory : Obligations.OnlyStoresAndLoadsOfProgramsWriteMemory := by
  constructor
  · intro i s t a h ha
    obtain ⟨c, -, rfl⟩ | ⟨-, rfl⟩ := exec_cases h
    · rfl
    · exact effect_readMem_outside ha
  · intro s op a hreset hstep hload
    cases op with
    | reset => exact absurd rfl hreset
    | loadProgram bytes => exact absurd rfl (hload bytes)
    | step => exact absurd rfl hstep
    | tickTimers => rfl
    | setKey k p => exact orUnchanged_setKey_readMem s k p a

/-! What the fetch reads at PC (R55, R61, R85). -/

theorem State.fetchInstr_of_pc_past {s : State} (h : 0xFFF < s.pc.toNat + 1) :
    s.fetchInstr = .error .fetchOutOfRange := by
  obtain ⟨-, hf⟩ | ⟨hpc, -⟩ | ⟨hpc, -⟩ := s.fetchInstr_cases
  · exact hf
  all_goals exact absurd hpc (by omega)

theorem State.fetchInstr_of_decode {s : State} {i : Instr} (hpc : s.pc.toNat + 1 ≤ 0xFFF)
    (hd : decodeWord s.wordAtPc = .ok i) : s.fetchInstr = .ok i := by
  obtain ⟨hpast, -⟩ | ⟨-, hnone, -⟩ | ⟨-, j, hj, hf⟩ := s.fetchInstr_cases
  · exact absurd hpast (by omega)
  · exact absurd hd (hnone i)
  · rwa [Except.ok.inj (hd.symm.trans hj)]

/-- A RUNNING core runs the instruction the word at PC decodes to. -/
theorem step_of_decode {s : State} {i : Instr} (hrun : s.status = .running) (hpc : s.pc.toNat + 1 ≤ 0xFFF)
    (hd : decodeWord s.wordAtPc = .ok i) : step s = exec i s :=
  step_of_fetch_ok hrun (State.fetchInstr_of_decode hpc hd)

/-- Settles O35: the second byte lies past memory, so the fetch fails and its fault is taken. -/
theorem fetchPastMemoryFaults : Obligations.FetchPastMemoryFaults := by
  intro s hrun hpc
  have hfetch : s.fetchInstr = .error .fetchOutOfRange := State.fetchInstr_of_pc_past (by omega)
  exact ⟨_, step_of_fetch_error hrun hfetch, s.takeFault_faulted _⟩

/-! A store over the next instruction (R66, R154). -/

theorem effect_ldMemVx_readMem (x k : RegNum) (s : State) (h : k ≤ x) :
    (effect (.ldMemVx x) s).readMem (s.i.toNat + k.val) = s.readV k := by
  have hk : k.val < (s.regsUpTo x).length := by
    rw [State.regsUpTo_length]
    exact Nat.lt_succ_of_le h
  exact (State.storeBytes_readMem_inside s.enterExecute s.i.toNat _ k.val hk).trans (s.regsUpTo_getElem x k.val hk)

theorem effect_ldMemVx_pc (x : RegNum) {s : State} (h : s.pc.toNat + 2 ≤ 0xFFF) :
    (effect (.ldMemVx x) s).pc.toNat = s.pc.toNat + 2 := by
  have hadv : (effect (.ldMemVx x) s).pc.toNat = (s.pc.toNat + 2) % 4096 := s.enterExecute_advanced
  omega

/-- With I at the advanced PC, `LD [I],V1` leaves V0 and V1 as the word at PC. -/
theorem effect_ldMemV1_wordAtPc {s : State} (hpc : s.pc.toNat + 2 ≤ 0xFFF) (hi : s.i.toNat = s.pc.toNat + 2) :
    (effect (.ldMemVx 1) s).wordAtPc = wordOfBytes (s.readV 0) (s.readV 1) := by
  have h0 : (effect (.ldMemVx 1) s).readMem s.i.toNat = s.readV 0 := effect_ldMemVx_readMem 1 0 s (by decide)
  have h1 : (effect (.ldMemVx 1) s).readMem (s.i.toNat + 1) = s.readV 1 := effect_ldMemVx_readMem 1 1 s (by decide)
  rw [State.wordAtPc, effect_ldMemVx_pc 1 hpc, ← hi, h0, h1]

/-- Settles O47: the store completes, its effect is RUNNING, and the word at the advanced PC is the one stored. -/
theorem storedWordIsTheNextInstruction : Obligations.StoredWordIsTheNextInstruction := by
  intro s j hrun hpc hi hlo hword hj
  have hstore : decodeWord s.wordAtPc = .ok (.ldMemVx 1) := by rw [hword]; decide
  have hfits : s.i.toNat + (1 : RegNum).val ≤ 0xFFF := by
    show s.i.toNat + 1 ≤ 0xFFF
    omega
  have hfree : ownFault (.ldMemVx 1) s = none := State.checkWrite_eq_none.mpr ⟨hlo, hfits⟩
  have hnext : (effect (.ldMemVx 1) s).pc.toNat + 1 ≤ 0xFFF := by
    rw [effect_ldMemVx_pc 1 (by omega)]
    omega
  refine ⟨effect (.ldMemVx 1) s, ?_, step_of_decode hrun hnext ?_⟩
  · rw [step_of_decode hrun (by omega) hstore, exec_of_noFault hfree]
  · rw [effect_ldMemV1_wordAtPc (by omega) hi]
    exact hj

end Sys2Proof.Machine
end

section
/-! Proofs, the words: the fields of a word determine it, and what the masks of `usedBits` leave of it (R71, R82). -/

namespace Sys2Proof

theorem eq_wordNnn_iff (w : Word) (op : BitVec 4) (nnn : Addr) :
    w = wordNnn op nnn ↔ fieldOp w = op ∧ fieldNnn w = nnn := by
  refine ⟨by rintro rfl; simp, ?_⟩
  rintro ⟨rfl, rfl⟩
  apply BitVec.eq_of_toNat_eq
  rw [wordNnn_toNat, fieldOp_toNat, fieldNnn_toNat]
  omega

theorem eq_wordXKk_iff (w : Word) (op : BitVec 4) (x : RegNum) (kk : Byte) :
    w = wordXKk op x kk ↔ fieldOp w = op ∧ fieldX w = x ∧ fieldKk w = kk := by
  refine ⟨by rintro rfl; simp, ?_⟩
  rintro ⟨rfl, rfl, rfl⟩
  apply BitVec.eq_of_toNat_eq
  rw [wordXKk_toNat, fieldOp_toNat, fieldX_val, fieldKk_toNat]
  omega

theorem eq_wordXYN_iff (w : Word) (op : BitVec 4) (x y : RegNum) (n : BitVec 4) :
    w = wordXYN op x y n ↔ fieldOp w = op ∧ fieldX w = x ∧ fieldY w = y ∧ fieldN w = regOfBits n := by
  refine ⟨by rintro rfl; simp, ?_⟩
  rintro ⟨rfl, rfl, rfl, hn⟩
  have hn' : n.toNat = w.toNat % 16 := by rw [← fieldN_val, hn]; rfl
  apply BitVec.eq_of_toNat_eq
  rw [wordXYN_toNat, fieldOp_toNat, fieldX_val, fieldY_val, hn']
  omega

theorem wordNnn_fields (w : Word) : wordNnn (fieldOp w) (fieldNnn w) = w :=
  ((eq_wordNnn_iff w _ _).mpr ⟨rfl, rfl⟩).symm

theorem wordXKk_fields (w : Word) : wordXKk (fieldOp w) (fieldX w) (fieldKk w) = w :=
  ((eq_wordXKk_iff w _ _ _).mpr ⟨rfl, rfl, rfl⟩).symm

theorem wordXYN_fields (w : Word) : wordXYN (fieldOp w) (fieldX w) (fieldY w) (bitsOfReg (fieldN w)) = w :=
  ((eq_wordXYN_iff w _ _ _ _).mpr ⟨rfl, rfl, rfl, (regOfBits_bitsOfReg _).symm⟩).symm

/-- The fields overlap: kk is the low byte of nnn. -/
theorem fieldNnn_setWidth (w : Word) : (fieldNnn w).setWidth 8 = fieldKk w := by
  rw [← fieldKk_wordNnn (fieldOp w), wordNnn_fields]

/-! The masks of `Instr.usedBits`, each by the nibble it clears. -/

theorem and_clearing_x (w : Word) : w &&& 0xF0FF#16 = wordXKk (fieldOp w) 0 (fieldKk w) := by
  have hm : 0xF0FF#16 = (BitVec.allOnes 4 ++ 0#4) ++ BitVec.allOnes 8 := by decide
  conv_lhs => rw [← wordXKk_fields w, hm]
  rw [wordXKk, BitVec.and_append, BitVec.and_append, BitVec.and_allOnes, BitVec.and_allOnes, BitVec.and_zero]
  rfl

theorem and_clearing_y (w : Word) :
    w &&& 0xFF0F#16 = wordXYN (fieldOp w) (fieldX w) 0 (bitsOfReg (fieldN w)) := by
  have hm : 0xFF0F#16 = BitVec.allOnes 8 ++ (0#4 ++ BitVec.allOnes 4) := by decide
  conv_lhs => rw [← wordXYN_fields w, hm]
  rw [wordXYN, BitVec.and_append, BitVec.and_append, BitVec.and_allOnes, BitVec.and_allOnes, BitVec.and_zero]
  rfl

theorem and_clearing_n (w : Word) : w &&& 0xFFF0#16 = wordXYN (fieldOp w) (fieldX w) (fieldY w) 0#4 := by
  have hm : 0xFFF0#16 = BitVec.allOnes 8 ++ (BitVec.allOnes 4 ++ 0#4) := by decide
  conv_lhs => rw [← wordXYN_fields w, hm]
  rw [wordXYN, BitVec.and_append, BitVec.and_append, BitVec.and_allOnes, BitVec.and_allOnes, BitVec.and_zero]
  rfl

theorem and_clearing_x_eq_iff (w : Word) (op : BitVec 4) (kk : Byte) :
    w &&& 0xF0FF#16 = wordXKk op 0 kk ↔ fieldOp w = op ∧ fieldKk w = kk := by
  simp [and_clearing_x, eq_wordXKk_iff]

theorem and_clearing_y_eq_iff (w : Word) (op : BitVec 4) (x : RegNum) (n : BitVec 4) :
    w &&& 0xFF0F#16 = wordXYN op x 0 n ↔ fieldOp w = op ∧ fieldX w = x ∧ fieldN w = regOfBits n := by
  simp [and_clearing_y, eq_wordXYN_iff]

theorem and_clearing_n_eq_iff (w : Word) (op : BitVec 4) (x y : RegNum) :
    w &&& 0xFFF0#16 = wordXYN op x y 0#4 ↔ fieldOp w = op ∧ fieldX w = x ∧ fieldY w = y := by
  simp [and_clearing_n, eq_wordXYN_iff]

theorem and_clearing_none (w : Word) : w &&& 0xFFFF#16 = w := BitVec.and_allOnes

/-- Settles O33, field by field. -/
theorem decoderFieldsAreTheBitRanges : Obligations.DecoderFieldsAreTheBitRanges := fun w =>
  ⟨fieldOp_toNat w, fieldX_val w, fieldY_val w, fieldN_val w, fieldKk_toNat w, fieldNnn_toNat w⟩

end Sys2Proof
end

section
/-! Proofs, decode and encode: the canonical word decodes to its instruction, and what each dispatch table answers for a
word, as the code the word is or as the row it misses. -/

namespace Sys2Proof

/-! From an instruction to its word and back (R80, R83). -/

theorem wellFormed_sys_iff (nnn : Addr) :
    (Instr.sys nnn).wellFormed = true ↔ nnn.setWidth 8 ≠ 0xE0#8 ∧ nnn.setWidth 8 ≠ 0xEE#8 := by
  simp [Instr.wellFormed]

/-- The words of sub-table 0 that are neither CLS nor RET (R76). -/
theorem subTable0_eq_sys {w : Word} (hcls : fieldKk w ≠ 0xE0#8) (hret : fieldKk w ≠ 0xEE#8) :
    subTable0 w = .ok (.sys (fieldNnn w)) := by
  unfold subTable0
  split
  · next h => exact absurd (BitVec.eq_of_toNat_eq h) hcls
  · next h => exact absurd (BitVec.eq_of_toNat_eq h) hret
  · rfl

/-- The canonical word carries its row's keys and its operands' fields, so the tables lead back to the row. -/
theorem decodeWord_encode {i : Instr} (hi : i.wellFormed = true) : decodeWord (encode i) = .ok i := by
  cases i
  case sys nnn =>
    obtain ⟨hcls, hret⟩ := (wellFormed_sys_iff nnn).mp hi
    have h : subTable0 (wordNnn 0x0#4 nnn) = .ok (.sys nnn) := by
      rw [subTable0_eq_sys (by rwa [fieldKk_wordNnn]) (by rwa [fieldKk_wordNnn]), fieldNnn_wordNnn]
    simp [encode, decodeWord, h]
  case cls | ret => rfl
  case ldVxVy | orVxVy | andVxVy | xorVxVy | addVxVy | subVxVy | shrVx | subnVxVy | shlVx =>
    simp [encode, decodeWord, subTable8, regOfBits]
  case skpVx | sknpVx => simp [encode, decodeWord, subTableE]
  case ldVxDt | ldVxK | ldDtVx | ldStVx | addIVx | ldFVx | ldBVx | ldMemVx | ldVxMem =>
    simp [encode, decodeWord, subTableF]
  all_goals simp [encode, decodeWord]

/-- Settles O30, row by row in `decodeWord_encode`. -/
theorem decodeOfEncodeIsTheInstruction : Obligations.DecodeOfEncodeIsTheInstruction := fun _ hi => decodeWord_encode hi

/-! From a word to the instruction it is a code of (R80, R82). -/

/-- The word is the canonical word of a well-formed instruction, up to the bits its row ignores. -/
def IsCodeOf (w : Word) (i : Instr) : Prop := i.wellFormed = true ∧ w &&& i.usedBits = encode i

/-- The right answer of a table that rejects exactly the words with `noRow`. -/
def Answers (w : Word) (noRow : Prop) : Except DecodeError Instr → Prop
  | .ok i => ¬ noRow ∧ IsCodeOf w i
  | .error _ => noRow

theorem Answers.congr {w : Word} {p q : Prop} {r : Except DecodeError Instr} (h : Answers w p r) (hpq : p ↔ q) :
    Answers w q r := propext hpq ▸ h

/-- A word whose sub-key has no row in its sub-table (R77–R79, R81). -/
def LacksRow (w : Word) : Prop :=
  ((fieldOp w).toNat = 0x8 ∧ (fieldN w).val ∈ [0x8, 0x9, 0xA, 0xB, 0xC, 0xD, 0xF]) ∨
  ((fieldOp w).toNat = 0xE ∧ (fieldKk w).toNat ∉ [0x9E, 0xA1]) ∨
  ((fieldOp w).toNat = 0xF ∧ (fieldKk w).toNat ∉ [0x07, 0x0A, 0x15, 0x18, 0x1E, 0x29, 0x33, 0x55, 0x65])

section

variable {w : Word}

/-- A row keyed by op and kk, or by op alone with kk an operand, ignores no bits: its keys decide. -/
theorem isCodeOf_wordXKk {i : Instr} {op : BitVec 4} {kk : Byte} (hi : i.wellFormed = true)
    (hu : i.usedBits = 0xFFFF#16) (he : encode i = wordXKk op (fieldX w) kk) (hop : (fieldOp w).toNat = op.toNat)
    (hkk : (fieldKk w).toNat = kk.toNat) : IsCodeOf w i := by
  refine ⟨hi, ?_⟩
  rw [hu, and_clearing_none, he, eq_wordXKk_iff]
  exact ⟨BitVec.eq_of_toNat_eq hop, rfl, BitVec.eq_of_toNat_eq hkk⟩

theorem subTable0_answers (hop : (fieldOp w).toNat = 0x0) : Answers w False (subTable0 w) := by
  have hop' : fieldOp w = 0x0#4 := BitVec.eq_of_toNat_eq hop
  unfold subTable0
  split
  · next h => exact ⟨id, rfl, (and_clearing_x_eq_iff w 0x0#4 0xE0#8).mpr ⟨hop', BitVec.eq_of_toNat_eq h⟩⟩
  · next h => exact ⟨id, rfl, (and_clearing_x_eq_iff w 0x0#4 0xEE#8).mpr ⟨hop', BitVec.eq_of_toNat_eq h⟩⟩
  · next hcls hret =>
    have hwf : (Instr.sys (fieldNnn w)).wellFormed = true := by
      rw [wellFormed_sys_iff, fieldNnn_setWidth]
      exact ⟨mt (congrArg BitVec.toNat) hcls, mt (congrArg BitVec.toNat) hret⟩
    exact ⟨id, hwf, (and_clearing_none w).trans ((eq_wordNnn_iff w _ _).mpr ⟨hop', rfl⟩)⟩

theorem subTable8_answers (hop : (fieldOp w).toNat = 0x8) :
    Answers w ((fieldN w).val ∈ [0x8, 0x9, 0xA, 0xB, 0xC, 0xD, 0xF]) (subTable8 w) := by
  have hop' : fieldOp w = 0x8#4 := BitVec.eq_of_toNat_eq hop
  unfold subTable8
  split
  case h_7 h | h_9 h =>
    exact ⟨by simp [h], rfl, (and_clearing_y_eq_iff w _ _ _).mpr ⟨hop', rfl, Fin.ext h⟩⟩
  case h_10 =>
    have hlt := (fieldN w).isLt
    simp only [Answers, List.mem_cons, List.not_mem_nil, imp_false] at *
    omega
  all_goals
    rename_i h
    refine ⟨by simp [h], rfl, (and_clearing_none w).trans ?_⟩
    exact (eq_wordXYN_iff w _ _ _ _).mpr ⟨hop', rfl, rfl, Fin.ext h⟩

theorem subTableE_answers (hop : (fieldOp w).toNat = 0xE) :
    Answers w ((fieldKk w).toNat ∉ [0x9E, 0xA1]) (subTableE w) := by
  unfold subTableE
  split
  · next h => exact ⟨by simp [h], isCodeOf_wordXKk rfl rfl rfl hop h⟩
  · next h => exact ⟨by simp [h], isCodeOf_wordXKk rfl rfl rfl hop h⟩
  · simp_all [Answers]

theorem subTableF_answers (hop : (fieldOp w).toNat = 0xF) :
    Answers w ((fieldKk w).toNat ∉ [0x07, 0x0A, 0x15, 0x18, 0x1E, 0x29, 0x33, 0x55, 0x65]) (subTableF w) := by
  unfold subTableF
  split
  case h_10 => simp_all [Answers]
  all_goals
    rename_i h
    exact ⟨by simp [h], isCodeOf_wordXKk rfl rfl rfl hop h⟩

end

/-- The level-1 table rejects what its sub-tables reject and nothing else (R75, R81). First the four sub-tables, then the
rows with the operand nnn, those with x and kk, the two that ignore n (op 5 and 9), and DRW. -/
theorem decodeWord_answers (w : Word) : Answers w (LacksRow w) (decodeWord w) := by
  unfold decodeWord
  split
  case h_1 h => exact (subTable0_answers h).congr (by simp [LacksRow, h])
  case h_9 h => exact (subTable8_answers h).congr (by simp [LacksRow, h])
  case h_15 h => exact (subTableE_answers h).congr (by simp [LacksRow, h])
  case h_16 =>
    have h : (fieldOp w).toNat = 0xF := by
      have hlt := (fieldOp w).isLt
      simp only [imp_false] at *
      omega
    exact (subTableF_answers h).congr (by simp [LacksRow, h])
  case h_2 h | h_3 h | h_11 h | h_12 h =>
    refine ⟨by simp [LacksRow, h], rfl, (and_clearing_none w).trans ?_⟩
    exact (eq_wordNnn_iff w _ _).mpr ⟨BitVec.eq_of_toNat_eq h, rfl⟩
  case h_4 h | h_5 h | h_7 h | h_8 h | h_13 h =>
    exact ⟨by simp [LacksRow, h], isCodeOf_wordXKk rfl rfl rfl h rfl⟩
  case h_6 h | h_10 h =>
    exact ⟨by simp [LacksRow, h], rfl, (and_clearing_n_eq_iff w _ _ _).mpr ⟨BitVec.eq_of_toNat_eq h, rfl, rfl⟩⟩
  case h_14 h =>
    refine ⟨by simp [LacksRow, h], rfl, (and_clearing_none w).trans ?_⟩
    exact (eq_wordXYN_iff w _ _ _ _).mpr ⟨BitVec.eq_of_toNat_eq h, rfl, rfl, (regOfBits_bitsOfReg _).symm⟩

theorem isCodeOf_of_decodeWord {w : Word} {i : Instr} (h : decodeWord w = .ok i) : IsCodeOf w i := by
  have ha : Answers w (LacksRow w) (.ok i) := h ▸ decodeWord_answers w
  exact ha.2

/-- A code with no ignored bits is the canonical word; of one with an ignored nibble, the others still select its row. -/
theorem decodeWord_of_isCodeOf {w : Word} {i : Instr} (h : IsCodeOf w i) : decodeWord w = .ok i := by
  obtain ⟨hi, hw⟩ := h
  cases i
  case cls =>
    obtain ⟨hop, hkk⟩ := (and_clearing_x_eq_iff w 0x0#4 0xE0#8).mp hw
    simp [decodeWord, hop, subTable0, hkk]
  case ret =>
    obtain ⟨hop, hkk⟩ := (and_clearing_x_eq_iff w 0x0#4 0xEE#8).mp hw
    simp [decodeWord, hop, subTable0, hkk]
  case seVxVy | sneVxVy =>
    obtain ⟨hop, hx, hy⟩ := (and_clearing_n_eq_iff w _ _ _).mp hw
    simp [decodeWord, hop, hx, hy]
  case shrVx | shlVx =>
    obtain ⟨hop, hx, hn⟩ := (and_clearing_y_eq_iff w _ _ _).mp hw
    simp [decodeWord, hop, subTable8, hx, hn, regOfBits]
  all_goals
    have hw' : w = encode _ := (and_clearing_none w).symm.trans hw
    rw [hw', decodeWord_encode hi]

/-- Settles O31: both directions above. -/
theorem wordDecodesIffItIsTheCodeUpToIgnoredBits : Obligations.WordDecodesIffItIsTheCodeUpToIgnoredBits :=
  fun _ _ => ⟨isCodeOf_of_decodeWord, decodeWord_of_isCodeOf⟩

/-- Settles O32: `LacksRow`, with its fields read as numbers, is what the decoder rejects. -/
theorem wordsThatSelectNothing : Obligations.WordsThatSelectNothing := by
  intro w
  have h := decodeWord_answers w
  rw [LacksRow, fieldOp_toNat, fieldN_val, fieldKk_toNat] at h
  revert h
  cases decodeWord w with
  | ok i => exact fun ⟨hrow, _⟩ => iff_of_false (fun hnone => hnone i rfl) hrow
  | error e => exact fun hrow => iff_of_true (fun _ => nofun) hrow

/-- Settles O29, by running the decoder on each word. -/
theorem listedWordsDecodeAsTheSpecSays : Obligations.ListedWordsDecodeAsTheSpecSays := by
  unfold Obligations.ListedWordsDecodeAsTheSpecSays
  decide

end Sys2Proof
end

section
/-! Proofs, the cycle: what the step does with the word at PC (R55, R74, R85). -/

namespace Sys2Proof.Machine

theorem State.wordAtPc_eq_ofNat (s : State) : s.wordAtPc =
    BitVec.ofNat 16 (256 * (s.readMem s.pc.toNat).toNat + (s.readMem (s.pc.toNat + 1)).toNat) := by
  rw [State.wordAtPc, ← wordOfBytes_toNat, BitVec.ofNat_toNat, BitVec.setWidth_eq]

theorem State.fetchInstr_of_no_decode {s : State} (hpc : s.pc.toNat + 1 ≤ 0xFFF)
    (hd : ∀ i, decodeWord s.wordAtPc ≠ .ok i) : s.fetchInstr = .error (.unsupportedOpcode s.wordAtPc) := by
  obtain ⟨hpast, -⟩ | ⟨-, -, hf⟩ | ⟨-, i, hi, -⟩ := s.fetchInstr_cases
  · exact absurd hpast (by omega)
  · exact hf
  · exact absurd hi (hd i)

/-- Settles O34: the two bytes are the word at PC, and what decodes is well-formed. -/
theorem stepRunsTheInstructionAtPc : Obligations.StepRunsTheInstructionAtPc := by
  intro s i hrun hpc hd
  rw [← State.wordAtPc_eq_ofNat] at hd
  obtain ⟨hwf, -⟩ := isCodeOf_of_decodeWord hd
  exact ⟨hwf, step_of_decode hrun (by omega) hd⟩

/-- Settles O36: the dispatch fails on the word, and its fault is taken. -/
theorem unsupportedWordFaults : Obligations.UnsupportedWordFaults := by
  intro s hrun hpc hd
  have hfetch := State.fetchInstr_of_no_decode (by omega) hd
  exact ⟨_, step_of_fetch_error hrun hfetch, s.takeFault_faulted _⟩

end Sys2Proof.Machine
end

section
/-! Proofs, the register and arithmetic instructions (41_register_alu.md): what writes of registers after the start of
the execute phase leave unchanged, the bytes and flags as numbers, and the instructions by both. -/

namespace Sys2Proof.Machine

/-! The frame, one write at a time: it holds of the start of an execute phase, and a write of a register keeps it. -/

theorem State.enterExecute_onlyRegsAndPc (s : State) : OnlyRegsAndPc s s.enterExecute := by
  constructor <;> simp

theorem State.enterExecute_keepsRegs (s : State) : KeepsRegsBut [] s s.enterExecute :=
  fun r _ => s.enterExecute_readV r

theorem OnlyRegsAndPc.setV {s t : State} (h : OnlyRegsAndPc s t) (x : RegNum) (b : Byte) :
    OnlyRegsAndPc s (t.setV x b) := { h with }

theorem KeepsRegsBut.setV {l : List RegNum} {s t : State} (h : KeepsRegsBut l s t) (x : RegNum) (b : Byte) :
    KeepsRegsBut (x :: l) s (t.setV x b) := by
  intro r hr
  obtain ⟨hx, hl⟩ := not_or.mp (mt List.mem_cons.mpr hr)
  rw [State.setV_readV_ne t hx, h r hl]

/-- The instructions without a flag end in one write of Vx (R101 to R106). -/
theorem State.enterExecute_setV_frame (s : State) (x : RegNum) (b : Byte) :
    KeepsRegsBut [x] s (s.enterExecute.setV x b) ∧ Advanced s (s.enterExecute.setV x b) ∧
      OnlyRegsAndPc s (s.enterExecute.setV x b) :=
  ⟨s.enterExecute_keepsRegs.setV x b, s.enterExecute_advanced, s.enterExecute_onlyRegsAndPc.setV x b⟩

/-- The instructions with a flag write VF, then Vx (R100). -/
theorem State.enterExecute_setFlagThenV_frame (s : State) (x : RegNum) (f : Bool) (b : Byte) :
    KeepsRegsBut [x, VF] s (s.enterExecute.setFlagThenV x f b) ∧ Advanced s (s.enterExecute.setFlagThenV x f b) ∧
      OnlyRegsAndPc s (s.enterExecute.setFlagThenV x f b) :=
  ⟨(s.enterExecute_keepsRegs.setV VF _).setV x b, s.enterExecute_advanced,
    (s.enterExecute_onlyRegsAndPc.setV VF _).setV x b⟩

/-! Bytes and flags as numbers. -/

theorem bool01_carryOut (a b : Byte) : (bool01 (carryOut a b)).toNat = if a.toNat + b.toNat > 255 then 1 else 0 := by
  simp [bool01_toNat, carryOut]

theorem bool01_strictlyAbove (a b : Byte) :
    (bool01 (strictlyAbove a b)).toNat = if a.toNat > b.toNat then 1 else 0 := by
  simp [bool01_toNat, strictlyAbove]

theorem byte_toNat_sub (a b : Byte) : ((a - b).toNat : Int) = ((a.toNat : Int) - b.toNat) % 256 := by
  have := b.isLt
  rw [BitVec.toNat_sub]
  omega

theorem byte_toNat_shiftRight_one (a : Byte) : (a >>> 1).toNat = a.toNat / 2 := by
  rw [BitVec.toNat_ushiftRight, Nat.shiftRight_eq_div_pow, Nat.pow_one]

theorem byte_toNat_shiftLeft_one (a : Byte) : (a <<< 1).toNat = 2 * a.toNat % 256 := by
  rw [BitVec.toNat_shiftLeft, Nat.shiftLeft_eq, Nat.pow_one, Nat.mul_comm]

/-! The instructions that write Vx alone. -/

/-- Settles O1: one write of Vx, of the immediate. -/
theorem loadImmediateWritesOnlyVx : Obligations.LoadImmediateWritesOnlyVx := fun x kk s =>
  ⟨_, exec_of_noFault rfl, State.setV_readV_self _ x kk, s.enterExecute_setV_frame x kk⟩

/-- Settles O2: one write of Vx, of the sum of bytes, whose number is the sum modulo 256. -/
theorem addImmediateWrapsWithNoFlag : Obligations.AddImmediateWrapsWithNoFlag := by
  intro x kk s
  refine ⟨_, exec_of_noFault rfl, ?_, s.enterExecute_setV_frame x (s.readV x + kk)⟩
  simp [effect]

/-- Settles O3: one write of Vx each, of a byte that is bitwise by the library's `getLsbD` lemmas. -/
theorem copyAndLogicWriteOnlyVx : Obligations.CopyAndLogicWriteOnlyVx := by
  intro x y s
  refine ⟨⟨_, exec_of_noFault rfl, ?copy, s.enterExecute_setV_frame x _⟩,
    ⟨_, exec_of_noFault rfl, ?or, s.enterExecute_setV_frame x _⟩,
    ⟨_, exec_of_noFault rfl, ?and, s.enterExecute_setV_frame x _⟩,
    ⟨_, exec_of_noFault rfl, ?xor, s.enterExecute_setV_frame x _⟩⟩
  case copy => exact State.setV_readV_self _ x _
  all_goals simp [effect]

/-- Settles O7: RND is one write of Vx and, beside it, the two fields `drawRand` writes, which the frame puts back. -/
theorem randomByteIsMaskedAndRemembered : Obligations.RandomByteIsMaskedAndRemembered := fun x kk s =>
  ⟨_, exec_of_noFault rfl, rfl, State.setV_readV_self _ x _, rfl, s.enterExecute_setV_frame x (s.nextRand &&& kk)⟩

/-! The instructions that write VF, then Vx. -/

/-- An instruction that ends in `setFlagThenV` leaves its result in Vx and, unless Vx is VF, its flag in VF (R100). -/
theorem completes_of_setFlagThenV (i : Instr) (s : State) {x : RegNum} {f : Bool} {b : Byte} {n : Nat}
    (h : exec i s = .next (s.enterExecute.setFlagThenV x f b)) (hf : (bool01 f).toNat = n) :
    ∃ t, exec i s = .next t ∧ t.readV x = b ∧ (x ≠ VF → (t.readV VF).toNat = n) ∧
      KeepsRegsBut [x, VF] s t ∧ Advanced s t ∧ OnlyRegsAndPc s t := by
  refine ⟨_, h, State.setFlagThenV_readV_self _ x f b, fun hx => ?_, s.enterExecute_setFlagThenV_frame x f b⟩
  rw [State.setFlagThenV_readV_VF _ hx, hf]

/-- Settles O4: the flag is `carryOut`, the result the sum of bytes. -/
theorem addWritesCarryThenSum : Obligations.AddWritesCarryThenSum := by
  intro x y s
  obtain ⟨t, h, hx, rest⟩ :=
    completes_of_setFlagThenV (.addVxVy x y) s (exec_of_noFault rfl) (bool01_carryOut _ _)
  exact ⟨t, h, hx ▸ BitVec.toNat_add _ _, rest⟩

/-- Settles O5: the flag is `strictlyAbove`, with the operands exchanged for SUBN. -/
theorem subtractionsWriteNoBorrowThenDifference : Obligations.SubtractionsWriteNoBorrowThenDifference := by
  intro x y s
  constructor
  · obtain ⟨t, h, hx, rest⟩ :=
      completes_of_setFlagThenV (.subVxVy x y) s (exec_of_noFault rfl) (bool01_strictlyAbove _ _)
    exact ⟨t, h, hx ▸ byte_toNat_sub _ _, rest⟩
  · obtain ⟨t, h, hx, rest⟩ :=
      completes_of_setFlagThenV (.subnVxVy x y) s (exec_of_noFault rfl) (bool01_strictlyAbove _ _)
    exact ⟨t, h, hx ▸ byte_toNat_sub _ _, rest⟩

/-- Settles O6: the flags are `lowBit` and `highBit`, the results the shifts by one. -/
theorem shiftsWriteTheBitShiftedOut : Obligations.ShiftsWriteTheBitShiftedOut := by
  intro x s
  constructor
  · obtain ⟨t, h, hx, rest⟩ :=
      completes_of_setFlagThenV (.shrVx x) s (exec_of_noFault rfl) (bool01_lowBit _)
    exact ⟨t, h, hx ▸ byte_toNat_shiftRight_one _, rest⟩
  · obtain ⟨t, h, hx, rest⟩ :=
      completes_of_setFlagThenV (.shlVx x) s (exec_of_noFault rfl) (bool01_highBit _)
    exact ⟨t, h, hx ▸ byte_toNat_shiftLeft_one _, rest⟩

end Sys2Proof.Machine
end

section
/-! Proofs, the control flow (42_control_flow.md): jumps and skips as one write of PC after the start of the execute
phase, and CALL and RET as the same with the stack replaced. -/

namespace Sys2Proof.Machine

/-! One write of PC (R24), and what it leaves unchanged. -/

theorem OnlyRegsAndPc.setPc {s t : State} (h : OnlyRegsAndPc s t) (w : Word) : OnlyRegsAndPc s (t.setPc w) := { h with }

theorem KeepsRegsBut.setPc {l : List RegNum} {s t : State} (h : KeepsRegsBut l s t) (w : Word) :
    KeepsRegsBut l s (t.setPc w) := h

/-- Words that agree modulo 4096 are one value of PC. -/
theorem State.setPc_congr (s : State) {u w : Word} (h : mask12 u = mask12 w) : s.setPc u = s.setPc w := by
  rw [State.setPc, h, State.setPc]

/-- Jumps and skips end in one write of PC (R131, R134, R139). -/
theorem State.enterExecute_setPc_frame (s : State) (w : Word) :
    KeepsRegsBut [] s (s.enterExecute.setPc w) ∧ OnlyRegsAndPc s (s.enterExecute.setPc w) :=
  ⟨s.enterExecute_keepsRegs.setPc w, s.enterExecute_onlyRegsAndPc.setPc w⟩

/-- An instruction that ends in a write of PC leaves it in PC, modulo 4096. -/
theorem completes_of_setPc (i : Instr) (s : State) {w : Word} {n : Nat}
    (h : exec i s = .next (s.enterExecute.setPc w)) (hw : w.toNat % 4096 = n) :
    ∃ t, exec i s = .next t ∧ t.pc.toNat = n ∧ KeepsRegsBut [] s t ∧ OnlyRegsAndPc s t :=
  ⟨_, h, (mask12_toNat w).trans hw, s.enterExecute_setPc_frame w⟩

theorem zext12_toNat_mod (nnn : Addr) : (zext12 nnn).toNat % 4096 = nnn.toNat := by
  rw [zext12_toNat, Nat.mod_eq_of_lt nnn.isLt]

/-! The jumps. -/

/-- Settles O9: the sum of JP V0 is under 2^16, so that it is taken modulo 4096 alone. -/
theorem jumpsWriteOnlyPc : Obligations.JumpsWriteOnlyPc := by
  intro nnn s
  refine ⟨completes_of_setPc (.jp nnn) s (exec_of_noFault rfl) (zext12_toNat_mod nnn),
    completes_of_setPc (.jpV0Nnn nnn) s (exec_of_noFault rfl) ?_⟩
  rw [BitVec.toNat_add, zext12_toNat, zext8_toNat]
  omega

/-! The skips. -/

/-- A skip after the advance is one write of PC: masking twice is masking once (R24, R134). -/
theorem State.enterExecute_skipIf (s : State) (c : Bool) :
    s.enterExecute.skipIf c = s.enterExecute.setPc (s.pc + if c then 4#16 else 2#16) := by
  cases c
  · rfl
  · refine s.enterExecute.setPc_congr (BitVec.eq_of_toNat_eq ?_)
    simp only [State.enterExecute_pc, mask12_toNat, BitVec.toNat_add, BitVec.toNat_ofNat, if_true]
    omega

/-- An instruction that ends in a conditional skip moves PC by 4 or by 2 (R134). -/
theorem completes_of_skipIf (i : Instr) (s : State) {c : Bool} {n : Nat}
    (h : exec i s = .next (s.enterExecute.skipIf c)) (hn : (if c then 4 else 2) = n) :
    ∃ t, exec i s = .next t ∧ t.pc.toNat = (s.pc.toNat + n) % 4096 ∧ KeepsRegsBut [] s t ∧ OnlyRegsAndPc s t := by
  refine completes_of_setPc i s (s.enterExecute_skipIf c ▸ h) ?_
  subst hn
  cases c <;> simp [BitVec.toNat_add]

/-- Settles O13: the condition is the equality of the two bytes. -/
theorem skipWhenRegistersAreEqual : Obligations.SkipWhenRegistersAreEqual := fun x y s =>
  completes_of_skipIf (.seVxVy x y) s (exec_of_noFault rfl) (by simp)

/-- Settles O14: the conditions are the equality of two bytes and, twice, its negation. -/
theorem skipsOnTheOtherRegisterConditions : Obligations.SkipsOnTheOtherRegisterConditions := fun x y kk s =>
  ⟨completes_of_skipIf (.seVxKk x kk) s (exec_of_noFault rfl) (by simp),
    completes_of_skipIf (.sneVxKk x kk) s (exec_of_noFault rfl) (by simp),
    completes_of_skipIf (.sneVxVy x y) s (exec_of_noFault rfl) (by simp)⟩

/-! SYS. -/

/-- The word of SYS nnn is nnn itself: its top nibble is 0 (R80). -/
theorem encode_sys (nnn : Addr) : encode (.sys nnn) = BitVec.ofNat 16 nnn.toNat := by
  apply BitVec.eq_of_toNat_eq
  have := nnn.isLt
  simp only [encode, wordNnn_toNat, BitVec.toNat_ofNat]
  omega

theorem ownFault_sys_of_nop {s : State} (h : s.params.sysMode = .nop) (nnn : Addr) : ownFault (.sys nnn) s = none := by
  simp [ownFault, h]

theorem ownFault_sys_of_fault {s : State} (h : s.params.sysMode = .fault) (nnn : Addr) :
    ownFault (.sys nnn) s = some (.unsupportedOpcode (BitVec.ofNat 16 nnn.toNat)) := by
  simp [ownFault, h, encode_sys]

/-- Settles O8: by the mode, the start of an execute phase and no more, or the fault of the word. -/
theorem sysFollowsItsMode : Obligations.SysFollowsItsMode := by
  refine fun nnn s => ⟨fun hnop => ?_, fun hfault => ?_⟩
  · exact ⟨_, exec_of_noFault (ownFault_sys_of_nop hnop nnn), s.enterExecute_keepsRegs, s.enterExecute_advanced,
      s.enterExecute_onlyRegsAndPc⟩
  · exact ⟨_, exec_of_ownFault (ownFault_sys_of_fault hfault nnn), s.takeFault_faulted _⟩

/-! CALL and RET: the frame is that of a write of PC, once the stack is put back. -/

/-- RET where the stack is known to end in `top` (R133). -/
theorem effect_ret_of_append {s : State} {rest : List Word} {top : Word} (h : s.stack = rest ++ [top]) :
    effect .ret s = (s.enterExecute.setStack rest).setPc top := by
  simp [effect, h]

theorem exec_ret_of_append {s : State} {rest : List Word} {top : Word} (h : s.stack = rest ++ [top]) :
    exec .ret s = .next ((s.enterExecute.setStack rest).setPc top) := by
  rw [exec_of_noFault (ownFault_ret_of_ne (by simp [h])), effect_ret_of_append h]

/-- Settles O10: below depth 16 the effect of CALL, at depth 16 its fault, which leaves the stack. -/
theorem callPushesTheAdvancedPc : Obligations.CallPushesTheAdvancedPc := by
  refine fun nnn s => ⟨fun hlt => ?_, fun hfull => ?_⟩
  · exact ⟨_, s.enterExecute.pc, exec_of_noFault (ownFault_call_of_lt hlt nnn),
      (mask12_toNat _).trans (zext12_toNat_mod nnn), rfl, s.enterExecute_advanced,
      s.enterExecute_setPc_frame (zext12 nnn)⟩
  · exact ⟨_, exec_of_ownFault (ownFault_call_of_full hfull nnn), rfl, rfl⟩

/-- Settles O11: on a stack that ends in `top` the effect of RET, on an empty one its fault, which leaves the stack. -/
theorem returnPopsIntoPc : Obligations.ReturnPopsIntoPc := by
  refine fun s => ⟨fun rest top h => ?_, fun hempty => ?_⟩
  · exact ⟨_, exec_ret_of_append h, mask12_toNat top, rfl, s.enterExecute_setPc_frame top⟩
  · exact ⟨_, exec_of_ownFault (ownFault_ret_of_empty hempty), rfl, rfl⟩

/-- RET after CALL finds the advanced PC on top of the stack CALL found, and leaves what the start of CALL's execute
phase was (E2): that PC is masked already, so a second mask keeps it. -/
theorem exec_ret_effect_call (nnn : Addr) (s : State) : exec .ret (effect (.call nnn) s) = .next s.enterExecute := by
  have hstack : (effect (.call nnn) s).stack = s.stack ++ [s.enterExecute.pc] := rfl
  have hpc : mask12 s.enterExecute.pc = mask12 (s.pc + 2#16) := mask12_of_inSpace (mask12_inSpace _)
  rw [exec_ret_of_append hstack]
  exact congrArg Host.Outcome.next (s.enterExecute.setPc_congr hpc)

/-- Settles O12: CALL does not fault below depth 16, and RET then leaves a plain advance. -/
theorem callThenReturnComesBack : Obligations.CallThenReturnComesBack := fun nnn s hlt =>
  ⟨_, _, exec_of_noFault (ownFault_call_of_lt hlt nnn), exec_ret_effect_call nnn s, rfl, s.enterExecute_advanced,
    s.enterExecute_keepsRegs, s.enterExecute_onlyRegsAndPc⟩

end Sys2Proof.Machine
end

section
/-! Proofs, the address register and the memory transfers (43_memory_access.md): one write of I, one store of bytes, or
one load of registers after the start of the execute phase, with what each leaves unchanged. -/

namespace Sys2Proof.Machine

/-! The instructions that write I (R23). -/

/-- A write of I after the advance is an advance and no more, once I is put back. -/
theorem State.enterExecute_setI_frame (s : State) (w : Word) :
    KeepsRegsBut [] s (s.enterExecute.setI w) ∧ Advanced s (s.enterExecute.setI w) ∧
      OnlyRegsAndPc s { s.enterExecute.setI w with i := s.i } :=
  ⟨s.enterExecute_keepsRegs, s.enterExecute_advanced, s.enterExecute_onlyRegsAndPc⟩

/-- An instruction that ends in a write of I leaves it in I, modulo 4096. -/
theorem completes_of_setI (i : Instr) (s : State) {w : Word} {n : Nat}
    (h : exec i s = .next (s.enterExecute.setI w)) (hw : w.toNat % 4096 = n) :
    ∃ t, exec i s = .next t ∧ t.i.toNat = n ∧ KeepsRegsBut [] s t ∧ Advanced s t ∧
      OnlyRegsAndPc s { t with i := s.i } :=
  ⟨_, h, (mask12_toNat w).trans hw, s.enterExecute_setI_frame w⟩

/-- Every glyph lies inside memory, so that masking its address changes nothing. -/
theorem glyphAddr_toNat_mod (b : Byte) : (glyphAddr b).toNat % 4096 = 0x050 + 5 * (b.toNat % 16) := by
  rw [glyphAddr_toNat]
  omega

/-- Settles O15: one write of I each, of a value below 4096. -/
theorem loadAddressAndGlyphAddress : Obligations.LoadAddressAndGlyphAddress := fun nnn x s =>
  ⟨completes_of_setI (.ldINnn nnn) s (exec_of_noFault rfl) (zext12_toNat_mod nnn),
    completes_of_setI (.ldFVx x) s (exec_of_noFault rfl) (glyphAddr_toNat_mod _)⟩

/-- Settles O16: the 16-bit sum's modulus is a multiple of 4096, so masking it is the exact sum modulo 4096. -/
theorem addToAddressWrapsAt12Bits : Obligations.AddToAddressWrapsAt12Bits := by
  intro x s
  refine completes_of_setI (.addIVx x) s (exec_of_noFault rfl) ?_
  rw [BitVec.toNat_add, zext8_toNat]
  omega

/-! The stores (R60, R153, R154). -/

/-- A store after the advance is an advance and no more, once memory is put back. -/
theorem State.enterExecute_storeBytes_frame (s : State) (a : Nat) (bs : List Byte) :
    KeepsRegsBut [] s (s.enterExecute.storeBytes a bs) ∧ Advanced s (s.enterExecute.storeBytes a bs) ∧
      OnlyRegsAndPc s { s.enterExecute.storeBytes a bs with mem := s.mem } :=
  ⟨s.enterExecute_keepsRegs, s.enterExecute_advanced, s.enterExecute_onlyRegsAndPc⟩

/-- The three digits of a byte, by number: hundreds, tens, ones. -/
theorem bcdDigits_toNat (b : Byte) :
    (bcdDigits b)[0].toNat = b.toNat / 100 ∧ (bcdDigits b)[1].toNat = b.toNat / 10 % 10 ∧
      (bcdDigits b)[2].toNat = b.toNat % 10 := by
  have := b.isLt
  simp only [bcdDigits, List.getElem_cons_zero, List.getElem_cons_succ, BitVec.toNat_ofNat]
  omega

theorem effect_ldBVx_readMem (x : RegNum) (s : State) (k : Nat) (h : k < (bcdDigits (s.readV x)).length) :
    (effect (.ldBVx x) s).readMem (s.i.toNat + k) = (bcdDigits (s.readV x))[k] :=
  State.storeBytes_readMem_inside s.enterExecute s.i.toNat _ k h

/-- LD B,Vx leaves at I, I + 1, I + 2 the digits of Vx. -/
theorem effect_ldBVx_digits (x : RegNum) (s : State) :
    ((effect (.ldBVx x) s).readMem s.i.toNat).toNat = (s.readV x).toNat / 100 ∧
      ((effect (.ldBVx x) s).readMem (s.i.toNat + 1)).toNat = (s.readV x).toNat / 10 % 10 ∧
      ((effect (.ldBVx x) s).readMem (s.i.toNat + 2)).toNat = (s.readV x).toNat % 10 := by
  have byte := effect_ldBVx_readMem x s
  have h0 : (effect (.ldBVx x) s).readMem s.i.toNat = _ := byte 0 (by simp)
  rw [h0, byte 1 (by simp), byte 2 (by simp)]
  exact bcdDigits_toNat (s.readV x)

theorem ownFault_ldBVx_of_outside {s : State} (h : s.i.toNat < s.params.writeLo ∨ 0xFFF < s.i.toNat + 2) (x : RegNum) :
    ownFault (.ldBVx x) s = some (.outOfRange s.i.toNat (s.i.toNat + 2) .write) :=
  State.checkWrite_eq_some.mpr ⟨h, rfl⟩

/-- Settles O17: inside the writable region the three digits make up Vx, outside it the store's own fault is taken. -/
theorem bcdStoresTheDecimalDigits : Obligations.BcdStoresTheDecimalDigits := by
  refine fun x s => ⟨fun hlo hhi => ?_, fun hout => ?_⟩
  · obtain ⟨h0, h1, h2⟩ := effect_ldBVx_digits x s
    refine ⟨_, exec_of_noFault (State.checkWrite_eq_none.mpr ⟨hlo, hhi⟩), ?sum, ?tens, ?ones,
      fun a ha => effect_readMem_outside ha, s.enterExecute_storeBytes_frame _ _⟩
    all_goals omega
  · exact ⟨_, exec_of_ownFault (ownFault_ldBVx_of_outside hout x), s.takeFault_faulted _⟩

theorem ownFault_ldMemVx_of_inside {x : RegNum} {s : State} (hlo : s.params.writeLo ≤ s.i.toNat)
    (hhi : s.i.toNat + x.val ≤ 0xFFF) : ownFault (.ldMemVx x) s = none :=
  State.checkWrite_eq_none.mpr ⟨hlo, hhi⟩

theorem ownFault_ldMemVx_of_outside {x : RegNum} {s : State}
    (h : s.i.toNat < s.params.writeLo ∨ 0xFFF < s.i.toNat + x.val) :
    ownFault (.ldMemVx x) s = some (.outOfRange s.i.toNat (s.i.toNat + x.val) .write) :=
  State.checkWrite_eq_some.mpr ⟨h, rfl⟩

/-- Settles O18: inside the writable region the effect of the store, outside it its own fault. -/
theorem storeRegistersAllOrNothing : Obligations.StoreRegistersAllOrNothing := by
  refine fun x s => ⟨fun hlo hhi => ?_, fun hout => ?_⟩
  · exact ⟨_, exec_of_noFault (ownFault_ldMemVx_of_inside hlo hhi), fun k hk => effect_ldMemVx_readMem x k s hk,
      fun a ha => effect_readMem_outside ha, s.enterExecute_storeBytes_frame _ _⟩
  · exact ⟨_, exec_of_ownFault (ownFault_ldMemVx_of_outside hout), s.takeFault_faulted _⟩

/-! The load (R59, R155). -/

theorem OnlyRegsAndPc.setAllV {s t : State} (h : OnlyRegsAndPc s t) (v : Vector Byte 16) :
    OnlyRegsAndPc s (t.setAllV v) := { h with }

theorem effect_ldVxMem_readV (x k : RegNum) (s : State) :
    (effect (.ldVxMem x) s).readV k = if k ≤ x then s.readMem (s.i.toNat + k.val) else s.readV k :=
  s.loadedRegs_getElem x k

theorem ownFault_ldVxMem_of_inside {x : RegNum} {s : State} (h : s.i.toNat + x.val ≤ 0xFFF) :
    ownFault (.ldVxMem x) s = none :=
  checkRead_eq_none.mpr h

theorem ownFault_ldVxMem_of_outside {x : RegNum} {s : State} (h : 0xFFF < s.i.toNat + x.val) :
    ownFault (.ldVxMem x) s = some (.outOfRange s.i.toNat (s.i.toNat + x.val) .read) :=
  checkRead_eq_some.mpr ⟨h, rfl⟩

/-- Settles O19: inside memory the effect of the load, outside it its own fault. -/
theorem loadRegistersAllOrNothing : Obligations.LoadRegistersAllOrNothing := by
  refine fun x s => ⟨fun hin => ?_, fun hout => ?_⟩
  · exact ⟨_, exec_of_noFault (ownFault_ldVxMem_of_inside hin), fun k => effect_ldVxMem_readV x k s,
      s.enterExecute_advanced, s.enterExecute_onlyRegsAndPc.setAllV _⟩
  · exact ⟨_, exec_of_ownFault (ownFault_ldVxMem_of_outside hout), s.takeFault_faulted _⟩

/-- Settles O20: the store leaves I (D9), so the load finds its range inside memory and reads the bytes stored. -/
theorem loadAfterStoreGivesTheRegistersBack : Obligations.LoadAfterStoreGivesTheRegistersBack := by
  intro x s v hlo hhi
  have hload : ownFault (.ldVxMem x) { effect (.ldMemVx x) s with v := v } = none := ownFault_ldVxMem_of_inside hhi
  refine ⟨_, _, exec_of_noFault (ownFault_ldMemVx_of_inside hlo hhi), exec_of_noFault hload, fun k => ?_⟩
  rw [effect_ldVxMem_readV]
  split
  · next hk => exact effect_ldMemVx_readMem x k s hk
  · rfl

end Sys2Proof.Machine
end

section
/-! Proofs, the display instructions (44_display.md): CLS by the list of lit pixels, DRW by the list of the positions its
set bits fall on, of which no two are the same (R173). -/

namespace Sys2Proof.Machine

/-- A new display after the advance is an advance and no more, once the display and the change list are put back. -/
theorem State.enterExecute_present_frame (s : State) (d : Grid) (l : List PixelChange) :
    KeepsRegsBut [] s (s.enterExecute.present d l) ∧ Advanced s (s.enterExecute.present d l) ∧
      OnlyRegsAndPc s { s.enterExecute.present d l with disp := s.disp, changeList := s.changeList } :=
  ⟨s.enterExecute_keepsRegs, s.enterExecute_advanced, { s.enterExecute_onlyRegsAndPc with }⟩

/-! CLS (R170). -/

@[simp] theorem blankGrid_getElem (r : Fin 32) (c : Fin 64) : blankGrid[r][c] = false := by
  simp [blankGrid]

theorem mem_clearedPixels {d : Grid} {e : PixelChange} :
    e ∈ clearedPixels d ↔ d[e.row][e.col] = true ∧ e.value = false := by
  simp only [clearedPixels, List.mem_flatMap, List.mem_map, List.mem_filter, List.mem_finRange, true_and]
  constructor
  · rintro ⟨r, c, hlit, rfl⟩
    exact ⟨hlit, rfl⟩
  · rintro ⟨hlit, hoff⟩
    exact ⟨e.row, e.col, hlit, by rw [← hoff]⟩

/-- The order of the two loops of R170: columns rise inside a row, and rows rise. -/
theorem clearedPixels_rowMajor (d : Grid) :
    (clearedPixels d).Pairwise fun e f => e.row < f.row ∨ (e.row = f.row ∧ e.col < f.col) := by
  refine List.pairwise_flatMap.mpr ⟨fun r _ => ?_, (List.pairwise_lt_finRange 32).imp fun hlt => ?_⟩
  · exact List.pairwise_map.mpr (((List.pairwise_lt_finRange 64).filter _).imp fun hlt => .inr ⟨rfl, hlt⟩)
  · intro e he f hf
    obtain ⟨c, -, rfl⟩ := List.mem_map.mp he
    obtain ⟨c', -, rfl⟩ := List.mem_map.mp hf
    exact .inl hlt

/-- Settles O21: the blank display, and the list of the lit pixels. -/
theorem clearTurnsEveryPixelOff : Obligations.ClearTurnsEveryPixelOff := fun s =>
  ⟨_, exec_of_noFault rfl, blankGrid_getElem, rfl, fun _ => mem_clearedPixels, clearedPixels_rowMajor s.disp,
    s.enterExecute_present_frame _ _⟩

/-! The range check of DRW (R59, R171). -/

theorem exec_drw_of_inside {x y : RegNum} {n : Count} {s : State} (h : n.val = 0 ∨ s.i.toNat + n.val ≤ 0x1000) :
    exec (.drwVxVyN x y n) s = .next (effect (.drwVxVyN x y n) s) :=
  exec_of_noFault (State.checkSprite_eq_none.mpr h)

theorem ownFault_drw_of_outside (x y : RegNum) {n : Count} {s : State} (hn : n.val ≠ 0)
    (h : 0xFFF < s.i.toNat + n.val - 1) :
    ownFault (.drwVxVyN x y n) s = some (.outOfRange s.i.toNat (s.i.toNat + n.val - 1) .read) := by
  refine State.checkSprite_eq_some.mpr ⟨⟨hn, by omega⟩, ?_⟩
  rw [Nat.add_sub_assoc (Nat.pos_of_ne_zero hn)]

/-- Settles O23: the sprite's range check fails, and the fault keeps the rest. -/
theorem drawPastMemoryFaults : Obligations.DrawPastMemoryFaults := fun x y _ s hn h =>
  ⟨_, exec_of_ownFault (ownFault_drw_of_outside x y hn h), s.takeFault_faulted _⟩

/-! The positions of a draw (R171, R173). -/

/-- The positions DRW toggles, in the order it draws them. -/
def State.spritePositions (s : State) (x y : RegNum) (n : Count) : List (Fin 32 × Fin 64) :=
  spritePlots (s.readV x) (s.readV y) 0 (Memory.readBytes s.mem (s.atI 0) n.val)

theorem State.spriteDrawing_eq_plots (s : State) (x y : RegNum) (n : Count) :
    s.spriteDrawing x y n = (⟨s.disp, [], false⟩ : Drawing).plots (s.spritePositions x y n) :=
  drawSprite_eq_plots _ _ _ _

/-- At most 15 rows on 32. -/
theorem State.spritePositions_nodup (s : State) (x y : RegNum) (n : Count) : (s.spritePositions x y n).Nodup := by
  refine spritePlots_nodup _ _ _ _ ?_
  simp only [Memory.readBytes, List.length_map, List.length_range]
  omega

/-- The loops of R171: over the sprite rows from `k` on, and inside a row over its set bits from the left. -/
theorem spritePlots_map_range' (cx cy : Byte) (f : Nat → Byte) (k n : Nat) :
    spritePlots cx cy k ((List.range' k n).map f) = (List.range' k n).flatMap fun m =>
      ((List.range 8).filter (spriteBit (f m))).map fun j => (spriteRow cy m, spriteCol cx j) := by
  induction n generalizing k with
  | zero => rfl
  | succ n ih => simp only [List.range'_succ, List.map_cons, List.flatMap_cons, spritePlots, ih]

theorem State.spritePositions_eq_flatMap (s : State) (x y : RegNum) (n : Count) :
    s.spritePositions x y n = (List.range n.val).flatMap fun k =>
      ((List.range 8).filter (spriteBit (s.readMem (s.i.toNat + k)))).map fun j =>
        (spriteRow (s.readV y) k, spriteCol (s.readV x) j) := by
  have h := spritePlots_map_range' (s.readV x) (s.readV y) (fun k => s.readMem (s.i.toNat + k)) 0 n.val
  rwa [← List.range_eq_range'] at h

theorem State.mem_spritePositions {s : State} {x y : RegNum} {n : Count} {r : Fin 32} {c : Fin 64} :
    (r, c) ∈ s.spritePositions x y n ↔
      ∃ k < n.val, ∃ j < 8, ((s.readV y).toNat + k) % 32 = r.val ∧ ((s.readV x).toNat + j) % 64 = c.val ∧
        (s.readMem (s.i.toNat + k)).getLsbD (7 - j) = true := by
  simp only [State.spritePositions_eq_flatMap, List.mem_flatMap, List.mem_map, List.mem_filter, List.mem_range,
    Prod.mk.injEq, Fin.ext_iff, spriteRow_val, spriteCol_val]
  constructor
  · rintro ⟨k, hk, j, ⟨hj, hbit⟩, hr, hc⟩
    exact ⟨k, hk, j, hj, hr, hc, hbit⟩
  · rintro ⟨k, hk, j, hj, hr, hc, hbit⟩
    exact ⟨k, hk, j, ⟨hj, hbit⟩, hr, hc⟩

/-! What DRW leaves, by its positions (R171, R172). -/

section
variable (x y : RegNum) (n : Count) (s : State)

theorem effect_drw_pixel_of_mem {r : Fin 32} {c : Fin 64} (h : (r, c) ∈ s.spritePositions x y n) :
    (effect (.drwVxVyN x y n) s).pixel r c = !s.pixel r c :=
  (congrArg (fun d : Drawing => d.disp[r][c]) (s.spriteDrawing_eq_plots x y n)).trans
    (Drawing.plots_disp_of_mem _ (s.spritePositions_nodup x y n) h)

theorem effect_drw_pixel_of_notMem {r : Fin 32} {c : Fin 64} (h : (r, c) ∉ s.spritePositions x y n) :
    (effect (.drwVxVyN x y n) s).pixel r c = s.pixel r c :=
  (congrArg (fun d : Drawing => d.disp[r][c]) (s.spriteDrawing_eq_plots x y n)).trans
    (Drawing.plots_disp_of_notMem _ _ h)

theorem effect_drw_pixel_ne_iff (r : Fin 32) (c : Fin 64) :
    (effect (.drwVxVyN x y n) s).pixel r c ≠ s.pixel r c ↔ (r, c) ∈ s.spritePositions x y n := by
  by_cases h : (r, c) ∈ s.spritePositions x y n
  · simp [effect_drw_pixel_of_mem x y n s h, h]
  · simp [effect_drw_pixel_of_notMem x y n s h, h]

theorem effect_drw_changeList :
    (effect (.drwVxVyN x y n) s).changeList =
      (s.spritePositions x y n).map fun p => ⟨p.1, p.2, !s.pixel p.1 p.2⟩ :=
  (congrArg Drawing.changes (s.spriteDrawing_eq_plots x y n)).trans
    (Drawing.plots_changes _ (s.spritePositions_nodup x y n))

theorem effect_drw_readV_VF :
    (effect (.drwVxVyN x y n) s).readV VF = bool01 ((s.spritePositions x y n).any fun p => s.pixel p.1 p.2) := by
  refine (State.setV_readV_self _ VF _).trans ?_
  rw [State.spriteDrawing_eq_plots, Drawing.plots_collide _ (s.spritePositions_nodup x y n), Bool.false_or]
  rfl

theorem effect_drw_readV_VF_eq_one :
    (effect (.drwVxVyN x y n) s).readV VF = 1#8 ↔
      ∃ r c, (r, c) ∈ s.spritePositions x y n ∧ s.pixel r c = true := by
  simp [effect_drw_readV_VF, bool01_eq_one]

theorem effect_drw_frame :
    KeepsRegsBut [VF] s (effect (.drwVxVyN x y n) s) ∧ Advanced s (effect (.drwVxVyN x y n) s) ∧
      OnlyRegsAndPc s { effect (.drwVxVyN x y n) s with disp := s.disp, changeList := s.changeList } := by
  obtain ⟨hregs, hpc, hrest⟩ := s.enterExecute_present_frame (s.spriteDrawing x y n).disp (s.spriteDrawing x y n).changes
  exact ⟨hregs.setV VF _, hpc, hrest.setV VF _⟩

end

/-- Settles O22: a pixel changes exactly at a position of the sprite, and there it goes off exactly when it was on. -/
theorem drawTogglesExactlyTheSprite : Obligations.DrawTogglesExactlyTheSprite := by
  intro x y n s h
  refine ⟨_, exec_drw_of_inside h, fun r c => ?_, ?_, ?_, rfl, effect_drw_frame x y n s⟩
  · rw [effect_drw_pixel_ne_iff, State.mem_spritePositions]
  · rw [effect_drw_readV_VF]
    exact (bool01_zero_or_one _).symm
  · rw [effect_drw_readV_VF_eq_one]
    refine exists_congr fun r => exists_congr fun c => ?_
    rw [← effect_drw_pixel_ne_iff]
    cases s.pixel r c <;> simp

/-- Settles O24: the list follows the positions, of which no two are the same. -/
theorem drawListsEachChangedPixelOnce : Obligations.DrawListsEachChangedPixelOnce := by
  intro x y n s h
  refine ⟨_, exec_drw_of_inside h, ?_, ?_⟩
  · simp only [effect_drw_changeList, State.spritePositions_eq_flatMap, List.map_flatMap, List.map_map]
    rfl
  · rw [effect_drw_changeList, List.pairwise_map]
    refine (s.spritePositions_nodup x y n).imp fun hne => ?_
    exact not_and_or.mp (mt Prod.ext_iff.mpr hne)

/-! The same sprite drawn twice (R174). -/

section
variable {x y : RegNum} (n : Count) (s : State)

/-- A draw leaves I, memory and the registers but VF, so the second draw falls on the positions of the first. -/
theorem spritePositions_effect_drw (hx : x ≠ VF) (hy : y ≠ VF) :
    (effect (.drwVxVyN x y n) s).spritePositions x y n = s.spritePositions x y n := by
  obtain ⟨hregs, -, -⟩ := effect_drw_frame x y n s
  simp only [State.spritePositions, hregs x (by simpa using hx), hregs y (by simpa using hy)]
  rfl

/-- Toggling the same pixels twice is toggling none. -/
theorem effect_drw_twice_disp (hx : x ≠ VF) (hy : y ≠ VF) :
    (effect (.drwVxVyN x y n) (effect (.drwVxVyN x y n) s)).disp = s.disp := by
  have hpos := spritePositions_effect_drw n s hx hy
  have hpixel (r : Fin 32) (c : Fin 64) :
      (effect (.drwVxVyN x y n) (effect (.drwVxVyN x y n) s)).pixel r c = s.pixel r c := by
    by_cases h : (r, c) ∈ s.spritePositions x y n
    · rw [effect_drw_pixel_of_mem _ _ _ _ (hpos ▸ h), effect_drw_pixel_of_mem _ _ _ _ h, Bool.not_not]
    · rw [effect_drw_pixel_of_notMem _ _ _ _ (hpos ▸ h), effect_drw_pixel_of_notMem _ _ _ _ h]
  exact Vector.ext fun r hr => Vector.ext fun c hc => hpixel ⟨r, hr⟩ ⟨c, hc⟩

theorem effect_drw_twice_changeList (hx : x ≠ VF) (hy : y ≠ VF) :
    (effect (.drwVxVyN x y n) (effect (.drwVxVyN x y n) s)).changeList =
      (effect (.drwVxVyN x y n) s).changeList.map fun e => { e with value := !e.value } := by
  rw [effect_drw_changeList, effect_drw_changeList, spritePositions_effect_drw n s hx hy, List.map_map]
  refine List.map_congr_left fun p hp => ?_
  rw [effect_drw_pixel_of_mem x y n s hp]
  rfl

/-- Where the first draw met no lit pixel, each of its positions is lit for the second. -/
theorem effect_drw_twice_collides_iff (hx : x ≠ VF) (hy : y ≠ VF)
    (hoff : (effect (.drwVxVyN x y n) s).readV VF = 0#8) :
    (effect (.drwVxVyN x y n) (effect (.drwVxVyN x y n) s)).readV VF = 1#8 ↔
      (effect (.drwVxVyN x y n) s).changeList ≠ [] := by
  rw [effect_drw_readV_VF, bool01_eq_zero, List.any_eq_false] at hoff
  have hlit {p : Fin 32 × Fin 64} (hp : p ∈ s.spritePositions x y n) :
      (effect (.drwVxVyN x y n) s).pixel p.1 p.2 = true := by
    rw [effect_drw_pixel_of_mem x y n s hp, Bool.eq_false_iff.mpr (hoff p hp), Bool.not_false]
  rw [effect_drw_readV_VF_eq_one, spritePositions_effect_drw n s hx hy, effect_drw_changeList, ne_eq,
    List.map_eq_nil_iff, List.eq_nil_iff_forall_not_mem, not_forall_not]
  exact ⟨fun ⟨r, c, hp, _⟩ => ⟨(r, c), hp⟩, fun ⟨p, hp⟩ => ⟨p.1, p.2, hp, hlit hp⟩⟩

end

/-- Settles O25: the first draw leaves I, so the second does not fault; the rest is what two draws leave. -/
theorem drawingTwiceRestoresTheDisplay : Obligations.DrawingTwiceRestoresTheDisplay := fun _ _ n s hx hy h =>
  ⟨_, _, exec_drw_of_inside h, exec_drw_of_inside h, effect_drw_twice_disp n s hx hy,
    effect_drw_twice_changeList n s hx hy, effect_drw_twice_collides_iff n s hx hy⟩

end Sys2Proof.Machine
end

section
/-! Proofs, the keyboard (45_input.md): the skips on the key Vx names, and the wait by the search for a release edge. -/

namespace Sys2Proof.Machine

/-! The skips (R190, R191). -/

theorem eq_keyIndex {k : RegNum} {b : Byte} (h : k.val = b.toNat % 16) : k = keyIndex b :=
  Fin.ext (h.trans (keyIndex_val b).symm)

/-- Settles O26: the conditions are the current state of the key Vx names and its negation. -/
theorem keySkipsTestTheCurrentKeyState : Obligations.KeySkipsTestTheCurrentKeyState := by
  intro x k s hk
  rw [eq_keyIndex hk]
  exact ⟨completes_of_skipIf (.skpVx x) s (exec_of_noFault rfl) rfl,
    completes_of_skipIf (.sknpVx x) s (exec_of_noFault rfl) (by cases s.keyDown (keyIndex (s.readV x)) <;> rfl)⟩

/-! The wait (R192). -/

theorem exec_ldVxK_of_released {s : State} {k : RegNum} (h : s.releasedKey = some k) (x : RegNum) :
    exec (.ldVxK x) s = .next (s.enterExecute.setV x (BitVec.ofNat 8 k.val)) := by
  rw [exec_of_noFault rfl]
  simp only [effect, h]

theorem exec_ldVxK_of_waiting {s : State} (h : s.releasedKey = none) (x : RegNum) :
    exec (.ldVxK x) s = .next (s.enterExecute.setPc (s.enterExecute.pc - 2#16)) := by
  rw [exec_of_noFault rfl]
  simp only [effect, h]

theorem regNum_toByte_toNat (k : RegNum) : (BitVec.ofNat 8 k.val).toNat = k.val := by
  rw [BitVec.toNat_ofNat, Nat.mod_eq_of_lt (by omega)]

/-- Going back undoes the advance, also past the top of memory: the 16-bit difference wraps, and 4096 divides its
modulus (R24). -/
theorem State.enterExecute_pc_back (s : State) : (s.enterExecute.pc - 2#16).toNat % 4096 = s.pc.toNat % 4096 := by
  have hadv : s.enterExecute.pc.toNat = (s.pc.toNat + 2) % 4096 := s.enterExecute_advanced
  rw [BitVec.toNat_sub, hadv, BitVec.toNat_ofNat]
  omega

/-- Settles O27: with a release edge the search finds the lowest and Vx takes it; with none it finds none and PC goes
back. -/
theorem keyWaitEndsOnAReleaseEdge : Obligations.KeyWaitEndsOnAReleaseEdge := by
  refine fun x s => ⟨fun k hwas hnow hmin => ?released, fun hnone => ?waiting⟩
  case released =>
    have hk : s.releasedKey = some k := State.releasedKey_eq_some.mpr ⟨⟨hwas, hnow⟩, hmin⟩
    refine ⟨_, exec_ldVxK_of_released hk x, ?_, s.enterExecute_setV_frame x _⟩
    rw [State.setV_readV_self, regNum_toByte_toNat]
  case waiting =>
    have hk : s.releasedKey = none := State.releasedKey_eq_none.mpr hnone
    exact completes_of_setPc (.ldVxK x) s (exec_ldVxK_of_waiting hk x) s.enterExecute_pc_back

end Sys2Proof.Machine
end

section
/-! Proofs, the timers (46_timers.md): one write of Vx, of DT and of ST. -/

namespace Sys2Proof.Machine

/-- A write of DT after the advance is an advance and no more, once DT is put back. -/
theorem State.enterExecute_setDt_frame (s : State) (b : Byte) :
    KeepsRegsBut [] s (s.enterExecute.setDt b) ∧ Advanced s (s.enterExecute.setDt b) ∧
      OnlyRegsAndPc s { s.enterExecute.setDt b with dt := s.dt } :=
  ⟨s.enterExecute_keepsRegs, s.enterExecute_advanced, s.enterExecute_onlyRegsAndPc⟩

/-- A write of ST after the advance is an advance and no more, once ST is put back. -/
theorem State.enterExecute_setSt_frame (s : State) (b : Byte) :
    KeepsRegsBut [] s (s.enterExecute.setSt b) ∧ Advanced s (s.enterExecute.setSt b) ∧
      OnlyRegsAndPc s { s.enterExecute.setSt b with st := s.st } :=
  ⟨s.enterExecute_keepsRegs, s.enterExecute_advanced, s.enterExecute_onlyRegsAndPc⟩

/-- Settles O28: none of the three faults, and each is one write after the advance, of Vx, of DT and of ST. -/
theorem timerInstructionsMoveOneByte : Obligations.TimerInstructionsMoveOneByte := by
  refine fun x s => ⟨?readDt, ?writeDt, ?writeSt⟩
  case readDt =>
    exact ⟨_, exec_of_noFault rfl, State.setV_readV_self _ x s.dt, s.enterExecute_setV_frame x s.dt⟩
  case writeDt => exact ⟨_, exec_of_noFault rfl, rfl, s.enterExecute_setDt_frame (s.readV x)⟩
  case writeSt => exact ⟨_, exec_of_noFault rfl, rfl, s.enterExecute_setSt_frame (s.readV x)⟩

end Sys2Proof.Machine
end

section
/-! Proofs, the faults (60_exceptions.md section 1): an instruction that completes leaves the status, so that a core
that has become FAULTED took a fault. -/

namespace Sys2Proof.Machine

/-- No effect writes the status: fault entry alone does (R37). -/
theorem effect_status (i : Instr) (s : State) : (effect i s).status = s.status := by
  cases i
  case ldVxK x =>
    obtain ⟨w, v, h⟩ := effect_ldVxK x s
    rw [h]
    rfl
  case seVxKk | sneVxKk | seVxVy | sneVxVy | skpVx | sknpVx => exact State.skipIf_status _ _
  all_goals rfl

/-- An instruction that leaves a RUNNING core FAULTED took the fault of the record, from the address fetched from. -/
theorem exec_eq_takeFault {i : Instr} {s t : State} {r : FaultRecord} (h : exec i s = .next t)
    (hrun : s.status = .running) (ht : t.status = .faulted r) :
    ownFault i s = some r.cause ∧ r.faultPc = s.pc ∧ t = s.takeFault r.cause := by
  obtain ⟨c, hc, rfl⟩ | ⟨-, rfl⟩ := exec_cases h
  · cases ht
    exact ⟨hc, rfl, rfl⟩
  · rw [effect_status, hrun] at ht
    cases ht

/-- So did a step, be it a fault of the fetch, of the dispatch or of the instruction. -/
theorem step_eq_takeFault {s t : State} {r : FaultRecord} (h : step s = .next t) (ht : t.status = .faulted r) :
    r.faultPc = s.pc ∧ t = s.takeFault r.cause := by
  obtain ⟨hrun, ⟨c, -, rfl⟩ | ⟨i, -, hi⟩⟩ := step_cases h
  · cases ht
    exact ⟨rfl, rfl⟩
  · exact (exec_eq_takeFault hi hrun ht).2

/-- Settles O38: by a step or by an instruction, the core took the record's fault, whose entry is R214's. -/
theorem faultEntryLeavesTheRestUnchanged : Obligations.FaultEntryLeavesTheRestUnchanged := by
  intro s t r hrun ht h
  have hfault : r.faultPc = s.pc ∧ t = s.takeFault r.cause := by
    obtain h | ⟨i, h⟩ := h
    · exact step_eq_takeFault h ht
    · exact (exec_eq_takeFault h hrun ht).2
  obtain ⟨hpc, rfl⟩ := hfault
  exact ⟨hpc, s.takeFault_faulted r.cause⟩

/-- Settles O39: the fault an instruction took is its own, and past memory the fetch fails before any dispatch. -/
theorem eachInstructionRaisesItsOwnFaults : Obligations.EachInstructionRaisesItsOwnFaults := by
  refine fun s hrun => ⟨fun i t r h ht => ?_, fun hpast => ?_⟩
  · exact ownFault_code (exec_eq_takeFault h hrun ht).1
  · exact ⟨_, step_of_fetch_error hrun (State.fetchInstr_of_pc_past hpast), rfl⟩

/-- Settles O40: the instruction takes its own fault, or takes none and has its effect. -/
theorem everyInstructionAnswersANextState : Obligations.EveryInstructionAnswersANextState := by
  intro i s
  cases hf : ownFault i s with
  | none => exact ⟨_, exec_of_noFault hf, .inl (effect_status i s)⟩
  | some c => exact ⟨_, exec_of_ownFault hf, .inr ⟨c, rfl, ownFault_code hf⟩⟩

end Sys2Proof.Machine
end

section
/-! Proofs, the end of a run and the reachable states (60_exceptions.md sections 5 and 6). -/

namespace Sys2Proof.Machine

theorem State.endedWell_iff {s : State} :
    s.endedWell = true ↔ s.status = .running ∧ s.fetchInstr = .ok (.jp (s.pc.setWidth 12)) := by
  simp [State.endedWell]

/-- A PC that can be fetched from is a 12-bit value. -/
theorem State.pc_inSpace_of_fetch_ok {s : State} {i : Instr} (h : s.fetchInstr = .ok i) : inSpace s.pc := by
  obtain ⟨-, hf⟩ | ⟨hpc, -⟩ | ⟨hpc, -⟩ := s.fetchInstr_cases
  · rw [hf] at h
    cases h
  all_goals exact Nat.le_of_succ_le hpc

theorem mask12_zext12_setWidth {w : Word} (h : inSpace w) : mask12 (zext12 (w.setWidth 12)) = w := by
  apply BitVec.eq_of_toNat_eq
  rw [mask12_toNat, zext12_toNat_mod, BitVec.toNat_setWidth]
  exact Nat.mod_eq_of_lt (Nat.lt_succ_of_le h)

/-- A jump to where it stands clears the draw flag and changes nothing else (R131, R85). -/
theorem exec_jp_self {s : State} (h : inSpace s.pc) :
    exec (.jp (s.pc.setWidth 12)) s = .next { s with drawFlag := false } := by
  have hjump : effect (.jp (s.pc.setWidth 12)) s =
      { s with drawFlag := false, pc := mask12 (zext12 (s.pc.setWidth 12)) } := rfl
  rw [exec_of_noFault rfl, hjump, mask12_zext12_setWidth h]

/-- Settles O48: the step is the self-jump, and neither the status nor the fetch reads the draw flag. -/
theorem selfJumpIsAtRest : Obligations.SelfJumpIsAtRest := by
  intro s h
  obtain ⟨hrun, hfetch⟩ := State.endedWell_iff.mp h
  refine ⟨?_, h⟩
  rw [step_of_fetch_ok hrun hfetch, exec_jp_self (State.pc_inSpace_of_fetch_ok hfetch)]

/-- Settles O59: every host operation keeps `Legal`, and every launch starts with it. -/
theorem everyReachableStateIsLegal : Obligations.EveryReachableStateIsLegal := fun _ h => h.legal

end Sys2Proof.Machine
end

section
/-! Proofs, the host's operations (60_exceptions.md sections 4 and 5): the tick, the key events, the load, the
accessors, and the status they leave. -/

namespace Sys2Proof.Machine

/-! The tick (R225). -/

theorem countDown_toNat (t : Byte) : (countDown t).toNat = t.toNat - 1 := by
  unfold countDown
  split
  · next h =>
    have hle : 1#8 ≤ t := h
    exact BitVec.toNat_sub_of_le hle
  · next h => omega

/-- Settles O51: each timer is counted down, and the record written is the old one with the two timers replaced. -/
theorem tickCountsBothTimersDown : Obligations.TickCountsBothTimersDown := fun s =>
  ⟨s.tickTimers, rfl, countDown_toNat s.dt, countDown_toNat s.st, rfl⟩

/-! The key events (R235, R236). -/

theorem State.setKey_of_lt {k : Nat} (h : k < 16) (s : State) (p : Bool) :
    s.setKey k p = .ok (s.changeKey ⟨k, h⟩ p) :=
  dif_pos h

theorem State.setKey_of_above {k : Nat} (h : 15 < k) (s : State) (p : Bool) : s.setKey k p = .error .rangeError :=
  dif_neg (by omega)

section

variable (s : State) {k : RegNum} {p : Bool}

theorem State.changeKey_of_eq (h : s.keyDown k = p) : s.changeKey k p = s := if_pos h

theorem State.changeKey_of_ne (h : s.keyDown k ≠ p) :
    s.changeKey k p = { s with keyPrev := s.keyPrev.set k s.keyCur[k], keyCur := s.keyCur.set k p } :=
  if_neg h

theorem State.changeKey_keyDown_self : (s.changeKey k p).keyDown k = p := by
  by_cases h : s.keyDown k = p
  · rwa [s.changeKey_of_eq h]
  · rw [s.changeKey_of_ne h]
    simp [State.keyDown]

theorem State.changeKey_keyWasDown_self :
    (s.changeKey k p).keyWasDown k = if s.keyDown k = p then s.keyWasDown k else s.keyDown k := by
  split
  · next h => rw [s.changeKey_of_eq h]
  · next h =>
    rw [s.changeKey_of_ne h]
    simp [State.keyDown, State.keyWasDown]

theorem State.changeKey_keys_ne {j : RegNum} (hj : j ≠ k) :
    (s.changeKey k p).keyDown j = s.keyDown j ∧ (s.changeKey k p).keyWasDown j = s.keyWasDown j := by
  have hval : ¬ k.val = j.val := fun e => hj (Fin.ext e.symm)
  by_cases h : s.keyDown k = p
  · rw [s.changeKey_of_eq h]
    exact ⟨rfl, rfl⟩
  · rw [s.changeKey_of_ne h]
    simp [State.keyDown, State.keyWasDown, hval]

/-- What `setKey` of a key there is leaves unchanged: all but the latch (R235). -/
theorem State.changeKey_frame : s = { s.changeKey k p with keyCur := s.keyCur, keyPrev := s.keyPrev } := by
  by_cases h : s.keyDown k = p
  · rw [s.changeKey_of_eq h]
  · rw [s.changeKey_of_ne h]

theorem State.changeKey_status : (s.changeKey k p).status = s.status :=
  (congrArg State.status (s.changeKey_frame (k := k) (p := p))).symm

end

theorem hostApply_setKey_of_ok {s t : State} {k : Nat} {p : Bool} (h : s.setKey k p = .ok t) :
    hostApply s (.setKey k p) = t := by
  rw [hostApply, h, orUnchanged]

/-- Settles O52: the key is there, and what `changeKey` does to its two states, to the other keys and to the rest. -/
theorem setKeyRecordsTheEdge : Obligations.SetKeyRecordsTheEdge := by
  intro s k p
  have hset : s.setKey k.val p = .ok (s.changeKey k p) := State.setKey_of_lt k.isLt s p
  exact ⟨_, hset, hostApply_setKey_of_ok hset, s.changeKey_keyDown_self, s.changeKey_keyWasDown_self,
    fun _ hj => s.changeKey_keys_ne hj, s.changeKey_frame⟩

/-! The load (R232). -/

theorem State.loadProgram_of_fits {bytes : List Byte} (h : bytes.length ≤ 3584) (s : State) :
    s.loadProgram bytes = .ok (s.storeBytes 0x200 bytes) :=
  if_pos h

theorem State.loadProgram_of_too_long {bytes : List Byte} (h : 3584 < bytes.length) (s : State) :
    s.loadProgram bytes = .error .tooLong :=
  if_neg (Nat.not_le.mpr h)

/-- Settles O54: the bytes are stored from 0x200 on, which gives each its byte and leaves the others. -/
theorem loadProgramCopiesOrRefuses : Obligations.LoadProgramCopiesOrRefuses := by
  refine fun s bytes => ⟨fun hfits => ?_, fun hlong => ?_⟩
  · exact ⟨_, s.loadProgram_of_fits hfits, s.storeBytes_readMem_inside 0x200 bytes,
      fun _ ha => s.storeBytes_readMem_outside 0x200 bytes ha, rfl⟩
  · have hrefused := s.loadProgram_of_too_long hlong
    refine ⟨hrefused, ?_⟩
    rw [hostApply, hrefused, orUnchanged]

/-! The accessors (R236, R237). -/

theorem State.peekV_of_above {k : Nat} (h : 15 < k) (s : State) : s.peekV k = .error .rangeError := dif_neg (by omega)

theorem State.peekKey_of_above {k : Nat} (h : 15 < k) (s : State) : s.peekKey k = .error .rangeError :=
  dif_neg (by omega)

/-- Settles O53: no index above 15 passes the three range checks. -/
theorem indexAbove15IsARangeError : Obligations.IndexAbove15IsARangeError := by
  intro s k p h
  have hset := s.setKey_of_above h p
  refine ⟨?_, ?_, s.peekV_of_above h, s.peekKey_of_above h⟩
  · rw [hostReply, hset, replyOf]
  · rw [hostApply, hset, orUnchanged]

theorem State.peekV_val (s : State) (x : RegNum) : s.peekV x.val = .ok (s.readV x) := dif_pos x.isLt

theorem State.peekKey_val (s : State) (k : RegNum) : s.peekKey k.val = .ok (s.keyDown k, s.keyWasDown k) :=
  dif_pos k.isLt

theorem State.peekMem_of_inside {hi : Nat} (h : hi ≤ 0xFFF) (s : State) (lo : Nat) :
    s.peekMem lo hi = .ok (Memory.readBytes s.mem lo (hi + 1 - lo)) :=
  if_neg (Nat.not_lt.mpr h)

theorem State.peekMem_of_past {hi : Nat} (h : 0xFFF < hi) (s : State) (lo : Nat) :
    s.peekMem lo hi = .error .rangeError :=
  if_pos h

@[simp] theorem Memory.readBytes_length (m : List Host.Cell) (a n : Nat) : (Memory.readBytes m a n).length = n := by
  simp [Memory.readBytes]

theorem Memory.readBytes_getElem (m : List Host.Cell) (a n k : Nat) (h : k < (Memory.readBytes m a n).length) :
    (Memory.readBytes m a n)[k] = Memory.read m (a + k) := by
  simp [Memory.readBytes]

/-- Settles O55: every register and key number passes its check, and an inclusive range in memory reads its bytes. -/
theorem accessorsReadWhatTheyName : Obligations.AccessorsReadWhatTheyName := by
  refine fun s => ⟨fun x => ⟨s.peekV_val x, s.peekKey_val x⟩, fun lo hi hle hin => ?_, fun lo hi hpast => ?_⟩
  · refine ⟨_, s.peekMem_of_inside hin lo, ?_, Memory.readBytes_getElem s.mem lo _⟩
    rw [Memory.readBytes_length]
    omega
  · exact s.peekMem_of_past hpast lo

/-! A FAULTED core (R215): reset alone leaves that status. -/

theorem State.afterStep_of_faulted {s : State} {r : FaultRecord} (h : s.status = .faulted r) : s.afterStep = s := by
  rw [State.afterStep, step_of_faulted h]

/-- Ticks, key events and loads, refused or not, leave the status. -/
theorem hostApply_status (s : State) {op : HostOp} (hreset : op ≠ .reset) (hstep : op ≠ .step) :
    (hostApply s op).status = s.status := by
  cases op with
  | reset => exact absurd rfl hreset
  | step => exact absurd rfl hstep
  | tickTimers => rfl
  | loadProgram bytes =>
    by_cases h : bytes.length ≤ 3584
    · rw [hostApply, State.loadProgram_of_fits h]
      rfl
    · rw [hostApply, State.loadProgram_of_too_long (by omega)]
      rfl
  | setKey k p =>
    by_cases h : k < 16
    · rw [hostApply, State.setKey_of_lt h]
      exact s.changeKey_status
    · rw [hostApply, State.setKey_of_above (by omega)]
      rfl

/-- Settles O37: a step is not taken, and the operations other than a step and reset leave every status. -/
theorem faultedCoreTakesNoStep : Obligations.FaultedCoreTakesNoStep := by
  intro s r hs
  have hstay : s.afterStep = s := State.afterStep_of_faulted hs
  refine ⟨step_of_faulted hs, hstay, fun op hreset => ?_, rfl⟩
  by_cases hstep : op = .step
  · rw [hstep, hostApply, hstay, hs]
  · rw [hostApply_status s hreset hstep, hs]

end Sys2Proof.Machine
end

section
/-! Proofs, reset (70_reset_and_hazards.md section 1): what memory reads right after it, and the values of every field. -/

namespace Sys2Proof.Machine

/-! The bytes of a font (R45). -/

@[simp] theorem fontBytes_length (f : Font) : (fontBytes f).length = 80 := by
  simp [fontBytes, Config.fontSize]

theorem fontBytes_getElem (f : Font) (k : Nat) (h : k < (fontBytes f).length) : (fontBytes f)[k] = fontByte f k := by
  simp [fontBytes]

/-- Row `j` of glyph `d` stands at offset `5 * d + j`. -/
theorem fontByte_glyph_row (f : Font) (d : Fin 16) (j : Fin 5) : fontByte f (5 * d.val + j.val) = f[d][j] := by
  have hglyph : Fin.ofNat 16 ((5 * d.val + j.val) / 5) = d := Fin.ext (by simp only [Fin.val_ofNat]; omega)
  have hrow : Fin.ofNat 5 ((5 * d.val + j.val) % 5) = j := Fin.ext (by simp only [Fin.val_ofNat]; omega)
  simp only [fontByte, hglyph, hrow]

theorem inFont_of_le_of_lt {a : Nat} (hlo : 0x050 ≤ a) (hhi : a < 0x0A0) : inFont a = true :=
  Bool.and_eq_true_iff.mpr ⟨decide_eq_true hlo, decide_eq_true hhi⟩

/-! Memory at reset (R250): the font is written over `INIT_MEM`. -/

theorem read_resetMemory_font (p : Params) (d : Fin 16) (j : Fin 5) :
    Memory.read (resetMemory p) (0x050 + 5 * d.val + j.val) = p.fontData[d][j] := by
  have hk : 5 * d.val + j.val < (fontBytes p.fontData).length := by
    rw [fontBytes_length]
    omega
  calc Memory.read (resetMemory p) (0x050 + 5 * d.val + j.val)
      = Memory.read (resetMemory p) (Config.fontBase + (5 * d.val + j.val)) := by rw [Nat.add_assoc]; rfl
    _ = (fontBytes p.fontData)[5 * d.val + j.val] := Memory.read_writeBytes_inside _ _ _ _ hk
    _ = p.fontData[d][j] := by rw [fontBytes_getElem, fontByte_glyph_row]

theorem read_resetMemory_outside (p : Params) {a : Nat} (h : a < 0x050 ∨ 0x09F < a) :
    Memory.read (resetMemory p) a = Memory.read p.initMem a := by
  refine Memory.read_writeBytes_outside _ _ _ ?_
  rw [fontBytes_length, Config.fontBase]
  omega

/-- On an empty stack SP reads its sentinel (R27). -/
theorem State.sp_of_empty {s : State} (h : s.stack = []) : s.sp = s.params.spEmpty := by
  simp [State.sp, State.depth, h]

/-- Settles O50: the font lies over the image, an empty stack reads as the sentinel, and the other fields are set. -/
theorem resetRestoresTheLaunchState : Obligations.ResetRestoresTheLaunchState := by
  intro s
  have hsp : s.hostReset.sp = s.params.spEmpty := State.sp_of_empty rfl
  exact ⟨s.hostReset, rfl, read_resetMemory_font s.params, fun _ => read_resetMemory_outside s.params, rfl, hsp,
    rfl, rfl, rfl, rfl, rfl, rfl, rfl, rfl, rfl, rfl, rfl, rfl, rfl⟩

/-! The accessors at `State.reset`. -/

@[simp] theorem State.reset_readV (r : RegNum) : State.reset.readV r = 0#8 := Vector.getElem_replicate _

@[simp] theorem State.reset_pixel (r : Fin 32) (c : Fin 64) : State.reset.pixel r c = false := by
  simp [State.pixel, State.reset]

@[simp] theorem State.reset_keyDown (k : RegNum) : State.reset.keyDown k = false := Vector.getElem_replicate _

@[simp] theorem State.reset_keyWasDown (k : RegNum) : State.reset.keyWasDown k = false := Vector.getElem_replicate _

/-- Memory at `State.reset` lists nothing, and the font region then reads as the default font (R53). -/
theorem State.reset_readMem_font (d : Fin 16) (j : Fin 5) :
    State.reset.readMem (0x050 + 5 * d.val + j.val) = defaultFont[d][j] := by
  have hin : inFont (0x050 + 5 * d.val + j.val) = true := inFont_of_le_of_lt (by omega) (by omega)
  have hoff : 0x050 + 5 * d.val + j.val - Config.fontBase = 5 * d.val + j.val := by
    rw [Config.fontBase]
    omega
  calc State.reset.readMem (0x050 + 5 * d.val + j.val)
      = Memory.unlisted (0x050 + 5 * d.val + j.val) := rfl
    _ = fontByte defaultFont (5 * d.val + j.val) := by rw [Memory.unlisted, if_pos hin, hoff]
    _ = defaultFont[d][j] := fontByte_glyph_row _ d j

/-- The five bytes of a digit's glyph at `State.reset`, top row first. -/
theorem State.reset_readMem_glyph (d : Fin 16) :
    (List.range 5).map (fun j => State.reset.readMem (0x050 + 5 * d.val + j)) = defaultFont[d].toList := by
  refine List.ext_getElem (by simp) fun j hj _ => ?_
  have hj : j < 5 := by simpa using hj
  simpa using State.reset_readMem_font d ⟨j, hj⟩

/-- Settles O49: the vectors are constant, the glyphs are rows 0 and F of the default font, the rest is written out in
`State.reset`. -/
theorem resetStateIsTheSpecs : Obligations.ResetStateIsTheSpecs :=
  ⟨State.reset_readV, rfl, rfl, rfl, rfl, rfl, State.reset_pixel,
    fun k => ⟨State.reset_keyDown k, State.reset_keyWasDown k⟩, rfl, rfl, rfl,
    State.reset_readMem_glyph 0x0, State.reset_readMem_glyph 0xF⟩

/-! The base case of the invariant. -/

/-- `State.reset` lists no memory, where a launch lists what differs from the default font and 0. -/
theorem State.reset_legal : State.reset.Legal where
  i_inSpace := Nat.zero_le _
  pc_inSpace := show 0x200 ≤ 0xFFF by decide
  depth_le := Nat.zero_le _
  stack_inSpace := nofun
  mem_wf := Memory.wf_reset
  initMem_wf := rfl

/-- Settles O58: the font is written inside the address space, so a canonical image stays canonical under it. -/
theorem resetStatesAreLegal : Obligations.ResetStatesAreLegal :=
  ⟨State.reset_legal, fun _ n hp => State.resetWith_legal hp n⟩

end Sys2Proof.Machine
end
